-- ==== Sys2Proof/Word.lean ====
section
/-! DEFINITION. The word types of CORE (00_scope.md R4): 8-bit registers and memory bytes, 16-bit addresses, 2-bit shades. -/

namespace Sys2Proof

/-- A register or a byte of memory (XLEN and the byte size of R4). -/
abbrev Byte := BitVec 8

/-- An address, the program counter, the stack pointer (ALEN of R4). -/
abbrev Word := BitVec 16

/-- A pixel shade: the 2-bit number equal to the shade's name (10_state.md R37; 20_memory.md R62). An opaque palette
index: no rule orders or adds shades. -/
abbrev Shade := BitVec 2

end Sys2Proof
end

