-- ==== Sys2Proof/Config.lean ====
section
/-! DEFINITION. The implementation parameters of CORE in one record (00_scope.md R4), each at the value the spec gives it. The
widths of R4 are the types of Word.lean; its `opcode_map` is `opcodeMap` and the field codes of Decode.lean. No rule of the
spec leaves a value free (R12), so there is no free value here. -/

namespace Sys2Proof

/-- `launch_registers` (R4; 92_eei_decisions.md D7): the register, flag, pc and sp values at the start of a claim. -/
structure LaunchRegisters where
  b : Byte
  c : Byte
  d : Byte
  e : Byte
  h : Byte
  l : Byte
  a : Byte
  zero : Bool
  subtract : Bool
  halfCarry : Bool
  carry : Bool
  pc : Word
  sp : Word
  deriving DecidableEq, Repr

/-- The parameters of R4. -/
structure Config where
  /-- First address of the video range. -/
  vramBase : Nat
  /-- Last address of the video range, inclusive (D8; [15]). -/
  vramLast : Nat
  /-- Bytes of raw video memory. -/
  vramSize : Nat
  /-- Slots of plain storage, indexed by absolute address (D19; [2]). -/
  plainSize : Nat
  /-- Video offsets below this are tile data (20_memory.md R55; D9; [15]). -/
  tileDataSize : Nat
  tileCount : Nat
  tileRows : Nat
  tileCols : Nat
  /-- `PREFIX_BYTE` (30_encoding.md R98; D2; [1]). -/
  prefixByte : Byte
  /-- `CALL_IMM_AFTER_PUSH` (44_call_ret.md R161, R163; D12; [4]). -/
  callImmAfterPush : Bool
  launchRegisters : LaunchRegisters
  /-- `env_wakes` (D14; [12]): whether a wake may occur during a run. -/
  envWakes : Bool
  /-- `host_writes` (D20; [12]): whether the host writes memory between the steps of a run. -/
  hostWrites : Bool
  deriving DecidableEq, Repr

/-- The default launch registers are the reset values (10_state.md R40; D7; [11]). -/
def launchDefault : LaunchRegisters where
  b := 0
  c := 0
  d := 0
  e := 0
  h := 0
  l := 0
  a := 0
  zero := false
  subtract := false
  halfCarry := false
  carry := false
  pc := 0
  sp := 0

/-- The values of R4. -/
def config : Config where
  vramBase := 0x8000
  vramLast := 0x9FFF
  vramSize := 0x2000
  plainSize := 0x10000
  tileDataSize := 0x1800
  tileCount := 384
  tileRows := 8
  tileCols := 8
  prefixByte := 0xCB
  callImmAfterPush := true
  launchRegisters := launchDefault
  envWakes := false
  hostWrites := false

end Sys2Proof
end

