-- ==== Sys2Proof/Syntax.lean ====
section
/-! DEFINITION. The instruction set as syntax. An instruction value is "the variant with its operand-selection tags"
(30_encoding.md R103): it names registers, pairs, conditions and addressing modes and carries no operand byte, because
operand bytes are read by the execution of the instruction (R96, R97, R99). `Instr` has one constructor per mnemonic of
spec/opcode_table.json; `Form` is the same set written as the 19 forms of R92 with their tags, plus the two kinds of
illegal slot, and `Instr.form` and `Form.instr` go between the two. -/

namespace Sys2Proof

/-- The seven general registers (10_state.md R20), in the order of their codes (30_encoding.md R93). -/
inductive Reg8 where
  | B | C | D | E | H | L | A
  deriving DecidableEq, Repr

/-- The three register pairs that are views of general registers (R22). AF has forms of its own (R23, R95). -/
inductive Pair where
  | BC | DE | HL
  deriving DecidableEq, Repr

/-- The condition codes (30_encoding.md R94). "always" is the unconditional form and has its own constructors. -/
inductive Cond where
  | NZ | Z | NC | C
  deriving DecidableEq, Repr

/-- The instructions: every mnemonic of spec/opcode_table.json. -/
inductive Instr where
  -- ADD A,r (R123)
  | add_A_B | add_A_C | add_A_D | add_A_E | add_A_H | add_A_L | add_A_A
  -- LD r,r' (R141)
  | ld_B_B | ld_B_C | ld_B_D | ld_B_E | ld_B_H | ld_B_L | ld_B_A | ld_C_B | ld_C_C | ld_C_D | ld_C_E | ld_C_H
  | ld_C_L | ld_C_A | ld_D_B | ld_D_C | ld_D_D | ld_D_E | ld_D_H | ld_D_L | ld_D_A | ld_E_B | ld_E_C | ld_E_D
  | ld_E_E | ld_E_H | ld_E_L | ld_E_A | ld_H_B | ld_H_C | ld_H_D | ld_H_E | ld_H_H | ld_H_L | ld_H_A | ld_L_B
  | ld_L_C | ld_L_D | ld_L_E | ld_L_H | ld_L_L | ld_L_A | ld_A_B | ld_A_C | ld_A_D | ld_A_E | ld_A_H | ld_A_L
  | ld_A_A
  -- LD r,d8 (R142)
  | ld_B_d8 | ld_C_d8 | ld_D_d8 | ld_E_d8 | ld_H_d8 | ld_L_d8 | ld_A_d8
  -- LD r,(HL) (R143)
  | ld_B_atHL | ld_C_atHL | ld_D_atHL | ld_E_atHL | ld_H_atHL | ld_L_atHL | ld_A_atHL
  -- LD (HL),r (R144)
  | ld_atHL_B | ld_atHL_C | ld_atHL_D | ld_atHL_E | ld_atHL_H | ld_atHL_L | ld_atHL_A
  -- LD (HL),d8 (R145)
  | ld_atHL_d8
  -- JP a16 (R131)
  | jp_a16
  -- JP cc,a16 (R132)
  | jp_NZ_a16 | jp_Z_a16 | jp_NC_a16 | jp_C_a16
  -- PUSH rr (R152)
  | push_BC | push_DE | push_HL
  -- PUSH AF (R153)
  | push_AF
  -- POP rr (R154)
  | pop_BC | pop_DE | pop_HL
  -- POP AF (R155)
  | pop_AF
  -- CALL a16 (R161)
  | call_a16
  -- CALL cc,a16 (R162)
  | call_NZ_a16 | call_Z_a16 | call_NC_a16 | call_C_a16
  -- RET (R164)
  | ret
  -- RET cc (R165)
  | ret_NZ | ret_Z | ret_NC | ret_C
  -- NOP (R170)
  | nop
  -- HALT (R171)
  | halt
  -- the lead-in byte standing alone (R174)
  | prefixLeadIn
  -- an unimplemented slot of the primary table, with its byte (R100)
  | illegal (opcode : Byte)
  -- a slot of the prefixed table, with the second byte (R101)
  | illegalPrefixed (opcode2 : Byte)
  deriving DecidableEq, Repr

/-- The forms of 30_encoding.md R92 with their operand tags, and the two kinds of illegal slot (R100, R101). -/
inductive Form where
  | addReg (r : Reg8) | ldRegReg (d r : Reg8) | ldRegImm (d : Reg8) | ldRegHl (d : Reg8) | ldHlReg (r : Reg8) | ldHlImm
  | jp | jpCond (cc : Cond) | pushPair (rr : Pair) | pushAf | popPair (rr : Pair) | popAf
  | call | callCond (cc : Cond) | ret | retCond (cc : Cond) | nop | halt
  | prefixLeadIn | illegal (opcode : Byte) | illegalPrefixed (opcode2 : Byte)
  deriving DecidableEq, Repr

/-- The form of an instruction and its tags. -/
def Instr.form : Instr → Form
  | .add_A_B => .addReg .B
  | .add_A_C => .addReg .C
  | .add_A_D => .addReg .D
  | .add_A_E => .addReg .E
  | .add_A_H => .addReg .H
  | .add_A_L => .addReg .L
  | .add_A_A => .addReg .A
  | .ld_B_B => .ldRegReg .B .B
  | .ld_B_C => .ldRegReg .B .C
  | .ld_B_D => .ldRegReg .B .D
  | .ld_B_E => .ldRegReg .B .E
  | .ld_B_H => .ldRegReg .B .H
  | .ld_B_L => .ldRegReg .B .L
  | .ld_B_A => .ldRegReg .B .A
  | .ld_C_B => .ldRegReg .C .B
  | .ld_C_C => .ldRegReg .C .C
  | .ld_C_D => .ldRegReg .C .D
  | .ld_C_E => .ldRegReg .C .E
  | .ld_C_H => .ldRegReg .C .H
  | .ld_C_L => .ldRegReg .C .L
  | .ld_C_A => .ldRegReg .C .A
  | .ld_D_B => .ldRegReg .D .B
  | .ld_D_C => .ldRegReg .D .C
  | .ld_D_D => .ldRegReg .D .D
  | .ld_D_E => .ldRegReg .D .E
  | .ld_D_H => .ldRegReg .D .H
  | .ld_D_L => .ldRegReg .D .L
  | .ld_D_A => .ldRegReg .D .A
  | .ld_E_B => .ldRegReg .E .B
  | .ld_E_C => .ldRegReg .E .C
  | .ld_E_D => .ldRegReg .E .D
  | .ld_E_E => .ldRegReg .E .E
  | .ld_E_H => .ldRegReg .E .H
  | .ld_E_L => .ldRegReg .E .L
  | .ld_E_A => .ldRegReg .E .A
  | .ld_H_B => .ldRegReg .H .B
  | .ld_H_C => .ldRegReg .H .C
  | .ld_H_D => .ldRegReg .H .D
  | .ld_H_E => .ldRegReg .H .E
  | .ld_H_H => .ldRegReg .H .H
  | .ld_H_L => .ldRegReg .H .L
  | .ld_H_A => .ldRegReg .H .A
  | .ld_L_B => .ldRegReg .L .B
  | .ld_L_C => .ldRegReg .L .C
  | .ld_L_D => .ldRegReg .L .D
  | .ld_L_E => .ldRegReg .L .E
  | .ld_L_H => .ldRegReg .L .H
  | .ld_L_L => .ldRegReg .L .L
  | .ld_L_A => .ldRegReg .L .A
  | .ld_A_B => .ldRegReg .A .B
  | .ld_A_C => .ldRegReg .A .C
  | .ld_A_D => .ldRegReg .A .D
  | .ld_A_E => .ldRegReg .A .E
  | .ld_A_H => .ldRegReg .A .H
  | .ld_A_L => .ldRegReg .A .L
  | .ld_A_A => .ldRegReg .A .A
  | .ld_B_d8 => .ldRegImm .B
  | .ld_C_d8 => .ldRegImm .C
  | .ld_D_d8 => .ldRegImm .D
  | .ld_E_d8 => .ldRegImm .E
  | .ld_H_d8 => .ldRegImm .H
  | .ld_L_d8 => .ldRegImm .L
  | .ld_A_d8 => .ldRegImm .A
  | .ld_B_atHL => .ldRegHl .B
  | .ld_C_atHL => .ldRegHl .C
  | .ld_D_atHL => .ldRegHl .D
  | .ld_E_atHL => .ldRegHl .E
  | .ld_H_atHL => .ldRegHl .H
  | .ld_L_atHL => .ldRegHl .L
  | .ld_A_atHL => .ldRegHl .A
  | .ld_atHL_B => .ldHlReg .B
  | .ld_atHL_C => .ldHlReg .C
  | .ld_atHL_D => .ldHlReg .D
  | .ld_atHL_E => .ldHlReg .E
  | .ld_atHL_H => .ldHlReg .H
  | .ld_atHL_L => .ldHlReg .L
  | .ld_atHL_A => .ldHlReg .A
  | .ld_atHL_d8 => .ldHlImm
  | .jp_a16 => .jp
  | .jp_NZ_a16 => .jpCond .NZ
  | .jp_Z_a16 => .jpCond .Z
  | .jp_NC_a16 => .jpCond .NC
  | .jp_C_a16 => .jpCond .C
  | .push_BC => .pushPair .BC
  | .push_DE => .pushPair .DE
  | .push_HL => .pushPair .HL
  | .push_AF => .pushAf
  | .pop_BC => .popPair .BC
  | .pop_DE => .popPair .DE
  | .pop_HL => .popPair .HL
  | .pop_AF => .popAf
  | .call_a16 => .call
  | .call_NZ_a16 => .callCond .NZ
  | .call_Z_a16 => .callCond .Z
  | .call_NC_a16 => .callCond .NC
  | .call_C_a16 => .callCond .C
  | .ret => .ret
  | .ret_NZ => .retCond .NZ
  | .ret_Z => .retCond .Z
  | .ret_NC => .retCond .NC
  | .ret_C => .retCond .C
  | .nop => .nop
  | .halt => .halt
  | .prefixLeadIn => .prefixLeadIn
  | .illegal b => .illegal b
  | .illegalPrefixed b => .illegalPrefixed b

/-- The instruction of a form with its tags. -/
def Form.instr : Form → Instr
  | .addReg .B => .add_A_B
  | .addReg .C => .add_A_C
  | .addReg .D => .add_A_D
  | .addReg .E => .add_A_E
  | .addReg .H => .add_A_H
  | .addReg .L => .add_A_L
  | .addReg .A => .add_A_A
  | .ldRegReg .B .B => .ld_B_B
  | .ldRegReg .B .C => .ld_B_C
  | .ldRegReg .B .D => .ld_B_D
  | .ldRegReg .B .E => .ld_B_E
  | .ldRegReg .B .H => .ld_B_H
  | .ldRegReg .B .L => .ld_B_L
  | .ldRegReg .B .A => .ld_B_A
  | .ldRegReg .C .B => .ld_C_B
  | .ldRegReg .C .C => .ld_C_C
  | .ldRegReg .C .D => .ld_C_D
  | .ldRegReg .C .E => .ld_C_E
  | .ldRegReg .C .H => .ld_C_H
  | .ldRegReg .C .L => .ld_C_L
  | .ldRegReg .C .A => .ld_C_A
  | .ldRegReg .D .B => .ld_D_B
  | .ldRegReg .D .C => .ld_D_C
  | .ldRegReg .D .D => .ld_D_D
  | .ldRegReg .D .E => .ld_D_E
  | .ldRegReg .D .H => .ld_D_H
  | .ldRegReg .D .L => .ld_D_L
  | .ldRegReg .D .A => .ld_D_A
  | .ldRegReg .E .B => .ld_E_B
  | .ldRegReg .E .C => .ld_E_C
  | .ldRegReg .E .D => .ld_E_D
  | .ldRegReg .E .E => .ld_E_E
  | .ldRegReg .E .H => .ld_E_H
  | .ldRegReg .E .L => .ld_E_L
  | .ldRegReg .E .A => .ld_E_A
  | .ldRegReg .H .B => .ld_H_B
  | .ldRegReg .H .C => .ld_H_C
  | .ldRegReg .H .D => .ld_H_D
  | .ldRegReg .H .E => .ld_H_E
  | .ldRegReg .H .H => .ld_H_H
  | .ldRegReg .H .L => .ld_H_L
  | .ldRegReg .H .A => .ld_H_A
  | .ldRegReg .L .B => .ld_L_B
  | .ldRegReg .L .C => .ld_L_C
  | .ldRegReg .L .D => .ld_L_D
  | .ldRegReg .L .E => .ld_L_E
  | .ldRegReg .L .H => .ld_L_H
  | .ldRegReg .L .L => .ld_L_L
  | .ldRegReg .L .A => .ld_L_A
  | .ldRegReg .A .B => .ld_A_B
  | .ldRegReg .A .C => .ld_A_C
  | .ldRegReg .A .D => .ld_A_D
  | .ldRegReg .A .E => .ld_A_E
  | .ldRegReg .A .H => .ld_A_H
  | .ldRegReg .A .L => .ld_A_L
  | .ldRegReg .A .A => .ld_A_A
  | .ldRegImm .B => .ld_B_d8
  | .ldRegImm .C => .ld_C_d8
  | .ldRegImm .D => .ld_D_d8
  | .ldRegImm .E => .ld_E_d8
  | .ldRegImm .H => .ld_H_d8
  | .ldRegImm .L => .ld_L_d8
  | .ldRegImm .A => .ld_A_d8
  | .ldRegHl .B => .ld_B_atHL
  | .ldRegHl .C => .ld_C_atHL
  | .ldRegHl .D => .ld_D_atHL
  | .ldRegHl .E => .ld_E_atHL
  | .ldRegHl .H => .ld_H_atHL
  | .ldRegHl .L => .ld_L_atHL
  | .ldRegHl .A => .ld_A_atHL
  | .ldHlReg .B => .ld_atHL_B
  | .ldHlReg .C => .ld_atHL_C
  | .ldHlReg .D => .ld_atHL_D
  | .ldHlReg .E => .ld_atHL_E
  | .ldHlReg .H => .ld_atHL_H
  | .ldHlReg .L => .ld_atHL_L
  | .ldHlReg .A => .ld_atHL_A
  | .ldHlImm => .ld_atHL_d8
  | .jp => .jp_a16
  | .jpCond .NZ => .jp_NZ_a16
  | .jpCond .Z => .jp_Z_a16
  | .jpCond .NC => .jp_NC_a16
  | .jpCond .C => .jp_C_a16
  | .pushPair .BC => .push_BC
  | .pushPair .DE => .push_DE
  | .pushPair .HL => .push_HL
  | .pushAf => .push_AF
  | .popPair .BC => .pop_BC
  | .popPair .DE => .pop_DE
  | .popPair .HL => .pop_HL
  | .popAf => .pop_AF
  | .call => .call_a16
  | .callCond .NZ => .call_NZ_a16
  | .callCond .Z => .call_Z_a16
  | .callCond .NC => .call_NC_a16
  | .callCond .C => .call_C_a16
  | .ret => .ret
  | .retCond .NZ => .ret_NZ
  | .retCond .Z => .ret_Z
  | .retCond .NC => .ret_NC
  | .retCond .C => .ret_C
  | .nop => .nop
  | .halt => .halt
  | .prefixLeadIn => .prefixLeadIn
  | .illegal b => .illegal b
  | .illegalPrefixed b => .illegalPrefixed b

end Sys2Proof
end

