-- ==== Sys2Proof/WellFormed.lean ====
section
/-! DEFINITION. Which instruction values are well formed. Operand tags cannot be wrong, being types; what can be wrong is the
byte an illegal slot carries: it must be one of the 152 bytes 30_encoding.md R100 lists. -/

namespace Sys2Proof

/-- The 152 unimplemented primary byte values, as the ranges R100 writes out (first and last, inclusive). -/
def illegalSlotRanges : List (Nat × Nat) :=
  [(0x01, 0x05), (0x07, 0x0D), (0x0F, 0x15), (0x17, 0x1D), (0x1F, 0x25), (0x27, 0x2D), (0x2F, 0x35), (0x37, 0x3D),
   (0x3F, 0x3F), (0x86, 0x86), (0x88, 0xBF), (0xC6, 0xC7), (0xCE, 0xCF), (0xD3, 0xD3), (0xD6, 0xD7), (0xD9, 0xD9),
   (0xDB, 0xDB), (0xDD, 0xE0), (0xE2, 0xE4), (0xE6, 0xF0), (0xF2, 0xF4), (0xF6, 0xFF)]

/-- Whether a byte is one of the 152 unimplemented primary values (R100). -/
def isIllegalSlot (b : Byte) : Bool :=
  illegalSlotRanges.any fun r => decide (r.1 ≤ b.toNat ∧ b.toNat ≤ r.2)

/-- The well-formedness check of an instruction value. Every byte after the lead-in is a slot of the prefixed table
(R101), so `illegalPrefixed` carries any byte. -/
def Instr.wf (i : Instr) : Bool :=
  match i.form with
  | .illegal b => isIllegalSlot b
  | .illegalPrefixed _ | .prefixLeadIn => true
  | .addReg _ | .ldRegReg _ _ | .ldRegImm _ | .ldRegHl _ | .ldHlReg _ | .ldHlImm => true
  | .jp | .jpCond _ | .pushPair _ | .pushAf | .popPair _ | .popAf => true
  | .call | .callCond _ | .ret | .retCond _ | .nop | .halt => true

end Sys2Proof
end

