-- ==== Sys2Proof/Decode.lean ====
section
/-! DEFINITION. The decoder (30_encoding.md R98 to R104) as table lookups, and the encoder written from the bit fields of R91
and the field codes of R93 to R95. The byte values, the lead-in and the codes are the spec's `opcode_map` (R4; D1, D2, D6;
[1]). -/

namespace Sys2Proof

/-- High byte, `v[15:8]` (00_scope.md R5). -/
def hiByte (v : Word) : Byte := v.extractLsb' 8 8

/-- Low byte, `v[7:0]` (R5). -/
def loByte (v : Word) : Byte := v.extractLsb' 0 8

/-- The concatenation `hi:lo`, that is `hi * 256 + lo` (R5). -/
def mkWord (hi lo : Byte) : Word := hi ++ lo

/-- NOP 0x00, HALT 0x76 (R92). -/
def opcodesMisc : List (Byte × Instr) :=
  [(0x00, .nop), (0x76, .halt)]

/-- Grid rows 0x to 3x: LD r,d8 and LD (HL),d8 (R92, R104). -/
def opcodesLdImm : List (Byte × Instr) :=
  [(0x06, .ld_B_d8), (0x0E, .ld_C_d8), (0x16, .ld_D_d8), (0x1E, .ld_E_d8), (0x26, .ld_H_d8), (0x2E, .ld_L_d8),
   (0x36, .ld_atHL_d8), (0x3E, .ld_A_d8)]

/-- Grid row 4x: byte loads (R104). -/
def opcodesLd4x : List (Byte × Instr) :=
  [(0x40, .ld_B_B), (0x41, .ld_B_C), (0x42, .ld_B_D), (0x43, .ld_B_E), (0x44, .ld_B_H), (0x45, .ld_B_L),
   (0x46, .ld_B_atHL), (0x47, .ld_B_A), (0x48, .ld_C_B), (0x49, .ld_C_C), (0x4A, .ld_C_D), (0x4B, .ld_C_E),
   (0x4C, .ld_C_H), (0x4D, .ld_C_L), (0x4E, .ld_C_atHL), (0x4F, .ld_C_A)]

/-- Grid row 5x: byte loads (R104). -/
def opcodesLd5x : List (Byte × Instr) :=
  [(0x50, .ld_D_B), (0x51, .ld_D_C), (0x52, .ld_D_D), (0x53, .ld_D_E), (0x54, .ld_D_H), (0x55, .ld_D_L),
   (0x56, .ld_D_atHL), (0x57, .ld_D_A), (0x58, .ld_E_B), (0x59, .ld_E_C), (0x5A, .ld_E_D), (0x5B, .ld_E_E),
   (0x5C, .ld_E_H), (0x5D, .ld_E_L), (0x5E, .ld_E_atHL), (0x5F, .ld_E_A)]

/-- Grid row 6x: byte loads (R104). -/
def opcodesLd6x : List (Byte × Instr) :=
  [(0x60, .ld_H_B), (0x61, .ld_H_C), (0x62, .ld_H_D), (0x63, .ld_H_E), (0x64, .ld_H_H), (0x65, .ld_H_L),
   (0x66, .ld_H_atHL), (0x67, .ld_H_A), (0x68, .ld_L_B), (0x69, .ld_L_C), (0x6A, .ld_L_D), (0x6B, .ld_L_E),
   (0x6C, .ld_L_H), (0x6D, .ld_L_L), (0x6E, .ld_L_atHL), (0x6F, .ld_L_A)]

/-- Grid row 7x: byte loads (R104). -/
def opcodesLd7x : List (Byte × Instr) :=
  [(0x70, .ld_atHL_B), (0x71, .ld_atHL_C), (0x72, .ld_atHL_D), (0x73, .ld_atHL_E), (0x74, .ld_atHL_H),
   (0x75, .ld_atHL_L), (0x77, .ld_atHL_A), (0x78, .ld_A_B), (0x79, .ld_A_C), (0x7A, .ld_A_D), (0x7B, .ld_A_E),
   (0x7C, .ld_A_H), (0x7D, .ld_A_L), (0x7E, .ld_A_atHL), (0x7F, .ld_A_A)]

/-- Grid row 8x: ADD A,r (R104). -/
def opcodesAdd : List (Byte × Instr) :=
  [(0x80, .add_A_B), (0x81, .add_A_C), (0x82, .add_A_D), (0x83, .add_A_E), (0x84, .add_A_H), (0x85, .add_A_L),
   (0x87, .add_A_A)]

/-- JP a16 and JP cc,a16 (R92). -/
def opcodesJump : List (Byte × Instr) :=
  [(0xC2, .jp_NZ_a16), (0xC3, .jp_a16), (0xCA, .jp_Z_a16), (0xD2, .jp_NC_a16), (0xDA, .jp_C_a16)]

/-- PUSH and POP (R92). -/
def opcodesStack : List (Byte × Instr) :=
  [(0xC1, .pop_BC), (0xC5, .push_BC), (0xD1, .pop_DE), (0xD5, .push_DE), (0xE1, .pop_HL), (0xE5, .push_HL),
   (0xF1, .pop_AF), (0xF5, .push_AF)]

/-- CALL and RET, conditional and not (R92). -/
def opcodesCallRet : List (Byte × Instr) :=
  [(0xC0, .ret_NZ), (0xC4, .call_NZ_a16), (0xC8, .ret_Z), (0xC9, .ret), (0xCC, .call_Z_a16),
   (0xCD, .call_a16), (0xD0, .ret_NC), (0xD4, .call_NC_a16), (0xD8, .ret_C), (0xDC, .call_C_a16)]

/-- The primary opcode map (30_encoding.md R104; D1; [1]): every implemented byte but the lead-in, with its instruction. -/
def opcodeMap : List (Byte × Instr) :=
  opcodesMisc ++ opcodesLdImm ++ opcodesLd4x ++ opcodesLd5x ++ opcodesLd6x ++
  opcodesLd7x ++ opcodesAdd ++ opcodesJump ++ opcodesStack ++ opcodesCallRet

/-- One byte looked up in the primary table. The table is total in shape: a byte without an entry is its own unimplemented
slot (R100); 0xCB is the lead-in's row (R105). -/
def decodePrimary (b : Byte) : Instr :=
  if b = config.prefixByte then .prefixLeadIn
  else match opcodeMap.find? (fun row => row.1 == b) with
    | some row => row.2
    | none => .illegal b

/-- One byte looked up in the prefixed table: all 256 slots are unimplemented (R101; D3). -/
def decodePrefixed (b : Byte) : Instr := .illegalPrefixed b

/-- `decode(opcode_byte, prefixed)` of R98, a function of the byte and the flag alone (R103). -/
def decodeByte (b : Byte) (isPrefixed : Bool) : Instr :=
  if isPrefixed then decodePrefixed b else decodePrimary b

/-- Why a byte sequence holds no instruction value at all. -/
inductive DecodeReject where
  /-- There is no first byte. -/
  | noBytes
  deriving DecidableEq, Repr

/-- The decoder on a byte sequence: the instruction and the bytes after its opcode bytes. The lead-in is consumed before the
second byte is looked up in the prefixed table, and is one-shot (R98); no operand byte is read (R99). A lead-in with no
byte after it stands alone (R107; [8]). -/
def decode : List Byte → Except DecodeReject (Instr × List Byte)
  | [] => .error .noBytes
  | [b0] => .ok (decodeByte b0 false, [])
  | b0 :: b1 :: rest =>
    if b0 = config.prefixByte then .ok (decodeByte b1 true, rest) else .ok (decodeByte b0 false, b1 :: rest)

/-- Whether decoding answered "decode failure": an unimplemented slot of either table (R100, R101, R103). -/
def Instr.isDecodeFailure (i : Instr) : Bool :=
  match i.form with
  | .illegal _ | .illegalPrefixed _ | .prefixLeadIn => true
  | .addReg _ | .ldRegReg _ _ | .ldRegImm _ | .ldRegHl _ | .ldHlReg _ | .ldHlImm => false
  | .jp | .jpCond _ | .pushPair _ | .pushAf | .popPair _ | .popAf => false
  | .call | .callCond _ | .ret | .retCond _ | .nop | .halt => false

/-! ### The encoder -/

/-- The 3-bit register code (R93). Code 110 is (HL) and names no register. -/
def Reg8.code : Reg8 → BitVec 3
  | .B => 0b000 | .C => 0b001 | .D => 0b010 | .E => 0b011 | .H => 0b100 | .L => 0b101 | .A => 0b111

/-- The code 110 of the byte at the address in HL (R93). -/
def hlCode : BitVec 3 := 0b110

/-- The 2-bit condition code (R94). -/
def Cond.code : Cond → BitVec 2
  | .NZ => 0b00 | .Z => 0b01 | .NC => 0b10 | .C => 0b11

/-- The 2-bit pair code (R95). AF's is 11. -/
def Pair.code : Pair → BitVec 2
  | .BC => 0b00 | .DE => 0b01 | .HL => 0b10

/-- Byte 0 of an instruction, from the bit fields of R91. -/
def Form.opcode : Form → Byte
  | .nop => 0x00
  | .halt => 0x76
  | .ldRegReg d r => 0b01#2 ++ d.code ++ r.code
  | .ldRegHl d => 0b01#2 ++ d.code ++ hlCode
  | .ldHlReg r => 0b01#2 ++ hlCode ++ r.code
  | .ldRegImm d => 0b00#2 ++ d.code ++ 0b110#3
  | .ldHlImm => 0b00#2 ++ hlCode ++ 0b110#3
  | .addReg r => 0b10#2 ++ 0b000#3 ++ r.code
  | .jp => 0xC3
  | .jpCond cc => 0b11#2 ++ 0b0#1 ++ cc.code ++ 0b010#3
  | .call => 0xCD
  | .callCond cc => 0b11#2 ++ 0b0#1 ++ cc.code ++ 0b100#3
  | .ret => 0xC9
  | .retCond cc => 0b11#2 ++ 0b0#1 ++ cc.code ++ 0b000#3
  | .pushPair rr => 0b11#2 ++ rr.code ++ 0b0#1 ++ 0b101#3
  | .pushAf => 0b11#2 ++ 0b11#2 ++ 0b0#1 ++ 0b101#3
  | .popPair rr => 0b11#2 ++ rr.code ++ 0b0#1 ++ 0b001#3
  | .popAf => 0b11#2 ++ 0b11#2 ++ 0b0#1 ++ 0b001#3
  | .prefixLeadIn => config.prefixByte
  | .illegal b => b
  | .illegalPrefixed _ => config.prefixByte

/-- How many operand bytes follow the opcode: one for OP_D8, two for OP_A16 (R91). -/
def Form.operandCount : Form → Nat
  | .ldRegImm _ | .ldHlImm => 1
  | .jp | .jpCond _ | .call | .callCond _ => 2
  | .addReg _ | .ldRegReg _ _ | .ldRegHl _ | .ldHlReg _ | .pushPair _ | .pushAf | .popPair _ | .popAf => 0
  | .ret | .retCond _ | .nop | .halt | .prefixLeadIn | .illegal _ | .illegalPrefixed _ => 0

/-- The encoded length in bytes (R90, R99). An unimplemented slot and the lead-in alone have none. -/
def Instr.length (i : Instr) : Option Nat :=
  if i.isDecodeFailure then none else some (1 + i.form.operandCount)

/-- The opcode bytes of an instruction: byte 0, and the second byte of a prefixed one (R91, R98). -/
def encode (i : Instr) : List Byte :=
  match i.form with
  | .illegalPrefixed b => [i.form.opcode, b]
  | _ => [i.form.opcode]

/-- The operand bytes for the immediate `imm`: d8 is its low byte, a16 is little-endian (R96, R97, R66). -/
def operandBytes (i : Instr) (imm : Word) : List Byte :=
  match i.form.operandCount with
  | 0 => []
  | 1 => [loByte imm]
  | _ => [loByte imm, hiByte imm]

/-- The whole instruction as it lies in memory at ascending addresses (R90, R91). -/
def assemble (i : Instr) (imm : Word) : List Byte := encode i ++ operandBytes i imm

/-! ### The opcode table's own numbering -/

/-- The `n` bytes of `w`, least significant first. -/
def bytesLE : Nat → Nat → List Byte
  | 0, _ => []
  | n + 1, w => BitVec.ofNat 8 w :: bytesLE n (w / 256)

/-- The bytes of an opcode-table word, first byte first. A primary row has one byte; byte 0 is the least significant. The
prefixed row is numbered the other way, "over the two bytes `{byte 0, byte 1}` as a 16-bit number" (R105; [10]), so its
lead-in stands in bits 15..8. -/
def tableBytes (nbits w : Nat) : List Byte :=
  if nbits = 16 ∧ w / 256 = config.prefixByte.toNat then [BitVec.ofNat 8 (w / 256), BitVec.ofNat 8 w]
  else bytesLE ((nbits + 7) / 8) w

/-- The instruction the decoder reads from an opcode-table word of `nbits` bits. -/
def decodeTableWord (nbits w : Nat) : Option Instr :=
  match decode (tableBytes nbits w) with
  | .ok r => some r.1
  | .error _ => none

end Sys2Proof
end

