-- ==== Sys2Proof/Machine/State.lean ====
section
/-! DEFINITION. The state of CORE (10_state.md R20 to R40), the reasons a step can stop, and the state after reset. -/

namespace Sys2Proof.Machine

/-- The four flags, "four independent booleans" (R25). The byte F is a view of them (R26). -/
structure Flags where
  /-- zero -/
  z : Bool
  /-- subtract -/
  n : Bool
  /-- half-carry -/
  h : Bool
  /-- carry -/
  c : Bool
  deriving DecidableEq, Repr

/-- The state of CORE (R11). Plain storage and raw video memory are the two storages of R34 and R35, each a list of
(index, byte) pairs with strictly rising indexes and no entry equal to 0x00, which is what an unlisted index reads as (R40;
[2]). The tile cache of R37 is the like list over pixel numbers, an unlisted pixel being shade "0" ([3]). -/
structure State where
  b : Byte
  c : Byte
  d : Byte
  e : Byte
  h : Byte
  l : Byte
  /-- the accumulator -/
  a : Byte
  flags : Flags
  pc : Word
  sp : Word
  /-- the run state (R31): true is halted -/
  halted : Bool
  /-- plain storage, by absolute address (R34; its slots 0x8000 to 0x9FFF are the shadow slots of R39) -/
  plain : List Host.Cell
  /-- raw video memory, by offset from 0x8000 (R35) -/
  vram : List Host.Cell
  /-- the tile cache, by pixel number `(t * 8 + r) * 8 + c` (R37) -/
  tiles : List (Nat × Shade)
  deriving DecidableEq, Repr

/-- The conditions a step can report (60_exceptions.md R182). A condition changes no state (R181); the model ends the run
there, as R189 and R225 advise. Safe: the hardware would only report the same condition again ([6]). -/
inductive Fault where
  /-- IllegalOpcode (R183): the address of the failed instruction's first byte, the byte that was looked up and has no
  entry, and which table was consulted. Raised by the meanings of ILLEGAL, PREFIX and ILLEGAL_PREFIXED. Safe. -/
  | illegalOpcode (addr : Word) (opcode : Byte) (isPrefixed : Bool)
  /-- UnimplementedSemantics (R184): the instruction's identity. Raised by nothing: every instruction the decoder produces
  has a meaning. Kept because it is part of the interface. Safe ([9]). -/
  | unimplementedSemantics (instr : Instr)
  deriving DecidableEq, Repr

/-- The reasons for which the model gives no meaning. No step refuses; two ports do ([16]). -/
inductive Refusal where
  /-- An instruction the model has not reached. Raised by nothing: every arm of the dispatch has a meaning. Safe. -/
  | notModelled (mnemonic : String)
  /-- A bulk load that would run past 0xFFFF, refused whole (20_memory.md R76; D13). Raised by the bulk-load port. Safe. -/
  | bulkLoadPastEnd
  /-- A TileRead with an index out of range (R65; D29). Raised by the tile port. Safe. -/
  | tileIndexOutOfRange
  deriving DecidableEq, Repr

/-- A launch state (R4 `launch_registers`; 20_memory.md R79): chosen registers, everything else as after reset. -/
def State.launch (r : LaunchRegisters) : State where
  b := r.b
  c := r.c
  d := r.d
  e := r.e
  h := r.h
  l := r.l
  a := r.a
  flags := { z := r.zero, n := r.subtract, h := r.halfCarry, c := r.carry }
  pc := r.pc
  sp := r.sp
  halted := false
  plain := []
  vram := []
  tiles := []

/-- The state after power-on reset (10_state.md R40; 70_reset_and_hazards.md R210): everything zero, running. -/
def State.reset : State where
  b := 0x00
  c := 0x00
  d := 0x00
  e := 0x00
  h := 0x00
  l := 0x00
  a := 0x00
  flags := { z := false, n := false, h := false, c := false }
  pc := 0x0000
  sp := 0x0000
  halted := false
  plain := []
  vram := []
  tiles := []

end Sys2Proof.Machine
end

