-- ==== Sys2Proof/Machine/Ops.lean ====
section
/-! DEFINITION. The shared operations: address arithmetic, sparse storage, the bus and the video unit (20_memory.md), the stack
discipline (43_stack.md R150, R151), instruction fetch (45_misc.md R173) and raising a condition (60_exceptions.md R181). -/

namespace Sys2Proof.Machine

/-! ### Addresses (00_scope.md R6) -/

/-- `add16(a, b) = (a + b) mod 65536`. -/
abbrev add16 (a b : Word) : Word := a + b

/-- `sub16(a, b) = (a - b) mod 65536`. -/
abbrev sub16 (a b : Word) : Word := a - b

/-! ### Sparse storage in canonical form ([2]) -/

/-- What index `k` of a sparse storage holds; an unlisted index holds `dflt`. -/
def Store.get {β : Type} (dflt : β) : List (Nat × β) → Nat → β
  | [], _ => dflt
  | entry :: rest, k => if entry.1 = k then entry.2 else Store.get dflt rest k

/-- Put one entry before the first entry of a greater index. -/
def Store.insert {β : Type} (new : Nat × β) : List (Nat × β) → List (Nat × β)
  | [] => [new]
  | entry :: rest => if new.1 < entry.1 then new :: entry :: rest else entry :: Store.insert new rest

/-- Storage with every entry of index `k` taken out. -/
def Store.erase {β : Type} (k : Nat) : List (Nat × β) → List (Nat × β)
  | [] => []
  | entry :: rest => if entry.1 = k then Store.erase k rest else entry :: Store.erase k rest

/-- Store `v` at index `k`. Storing what an unlisted index holds takes the entry out. -/
def Store.set {β : Type} [DecidableEq β] (dflt : β) (m : List (Nat × β)) (k : Nat) (v : β) : List (Nat × β) :=
  if v = dflt then Store.erase k m else Store.insert (k, v) (Store.erase k m)

/-- The canonical form: indexes strictly rise and no entry holds `dflt`. -/
def Store.wf {β : Type} [DecidableEq β] (dflt : β) : List (Nat × β) → Bool
  | [] => true
  | entry :: rest => decide (entry.2 ≠ dflt) && rest.all (fun other => decide (entry.1 < other.1)) && Store.wf dflt rest

/-- What a byte that nothing has written reads as (10_state.md R40; 20_memory.md R52). -/
def unwrittenByte : Byte := 0x00

/-- Whether a byte storage is in canonical form. -/
def Memory.wf (m : List Host.Cell) : Bool := Store.wf unwrittenByte m

/-! ### Bus dispatch (20_memory.md R50 to R55) -/

/-- The owner of an address. -/
inductive Owner where
  | VIDEO | PLAIN
  deriving DecidableEq, Repr

/-- The owner by range, both bounds of the video range inclusive (R50; D8). -/
def owner (addr : Word) : Owner :=
  if config.vramBase ≤ addr.toNat ∧ addr.toNat ≤ config.vramLast then .VIDEO else .PLAIN

/-- The zero-based video offset of an address of the video range (R54). -/
def videoOffset (addr : Word) : Nat := addr.toNat - config.vramBase

/-- A slot of plain storage (10_state.md R34). -/
def plainByte (s : State) (index : Nat) : Byte := Store.get unwrittenByte s.plain index

/-- A byte of raw video memory, the source of truth for reads (R35; 20_memory.md R58). -/
def vramByte (s : State) (offset : Nat) : Byte := Store.get unwrittenByte s.vram offset

/-! ### The video unit (20_memory.md R58 to R64) -/

/-- The shade mapping, row by row of R62's table (high-plane bit, low-plane bit). Not the Game Boy's `2*high + low`
(90_conflicts.md C4; [13]). -/
def shade (high low : Bool) : Shade :=
  match high, low with
  | false, false => 0
  | false, true => 2
  | true, false => 1
  | true, true => 3

/-- The shade of every pixel at reset (10_state.md R40). -/
def unwrittenShade : Shade := 0

/-- The number of the pixel in tile `t`, row `r`, column `c`. -/
def pixelIndex (t r c : Nat) : Nat := (t * config.tileRows + r) * config.tileCols + c

/-- `tiles[t][r][c]` (10_state.md R37). -/
def tilePixel (s : State) (t r c : Nat) : Shade := Store.get unwrittenShade s.tiles (pixelIndex t r c)

/-- The shade a pixel has by the two bytes of its row, bit 7 being the leftmost pixel (R60, R62). -/
def planeShade (highb lowb : Byte) (c : Nat) : Shade := shade (highb.getLsbD (7 - c)) (lowb.getLsbD (7 - c))

/-- Write the given columns of one tile row from its two bytes. -/
def writeColumns (highb lowb : Byte) (t r : Nat) : List Nat → List (Nat × Shade) → List (Nat × Shade)
  | [], tiles => tiles
  | c :: cols, tiles =>
    writeColumns highb lowb t r cols (Store.set unwrittenShade tiles (pixelIndex t r c) (planeShade highb lowb c))

/-- The columns of a tile row, left to right. -/
def tileColumns : List Nat := [0, 1, 2, 3, 4, 5, 6, 7]

/-- Align a video offset down to the even byte of its row, `offset & 0xFFFE` (R60). -/
def rowBase (offset : Nat) : Nat := 2 * (offset / 2)

/-- The tile of an offset in tile data, `offset >> 4` (R61). -/
def tileOf (offset : Nat) : Nat := offset / 16

/-- The row of an offset in tile data, `offset[3:1]` (R61). -/
def rowOf (offset : Nat) : Nat := offset / 2 % 8

/-- Recompute the one tile row an offset addresses from the two bytes as they now stand: the even byte is the low plane and
the odd byte the high plane (R60; D10, D30; [13]). -/
def updateTileRow (s : State) (offset : Nat) : State :=
  let lowb := vramByte s (rowBase offset)
  let highb := vramByte s (rowBase offset + 1)
  { s with tiles := writeColumns highb lowb (tileOf offset) (rowOf offset) tileColumns s.tiles }

/-- Store a raw byte of video memory (R59). -/
def storeVram (s : State) (offset : Nat) (v : Byte) : State :=
  { s with vram := Store.set unwrittenByte s.vram offset v }

/-- A video write: the raw store, then the tile row update when the offset lies in tile data (R59, R60, R64). -/
def videoWrite (s : State) (offset : Nat) (v : Byte) : State :=
  if offset < config.tileDataSize then updateTileRow (storeVram s offset v) offset else storeVram s offset v

/-- A plain write changes one byte of plain storage (R57). -/
def plainWrite (s : State) (addr : Word) (v : Byte) : State :=
  { s with plain := Store.set unwrittenByte s.plain addr.toNat v }

/-! ### The read and write primitives (R56, R57) -/

/-- `MemRead(addr, 1)`. -/
def memRead (s : State) (addr : Word) : Byte :=
  match owner addr with
  | .VIDEO => vramByte s (videoOffset addr)
  | .PLAIN => plainByte s addr.toNat

/-- `MemWrite(addr, 1, v)`. -/
def memWrite (s : State) (addr : Word) (v : Byte) : State :=
  match owner addr with
  | .VIDEO => videoWrite s (videoOffset addr) v
  | .PLAIN => plainWrite s addr v

/-! ### Setting one piece of state -/

/-- Assign the program counter. -/
def State.setPc (s : State) (v : Word) : State := { s with pc := v }

/-- Assign the stack pointer. -/
def State.setSp (s : State) (v : Word) : State := { s with sp := v }

/-- Assign the flags. -/
def State.setFlags (s : State) (f : Flags) : State := { s with flags := f }

/-- Assign the run state. -/
def State.setHalted (s : State) (v : Bool) : State := { s with halted := v }

/-- `pc <- add16(pc, n)`. -/
def advance (s : State) (n : Word) : State := s.setPc (add16 s.pc n)

/-! ### The stack discipline (43_stack.md) -/

/-- `Push16(v)`: high byte at sp-1, low byte at sp-2, sp down by 2 (R150). -/
def push16 (s : State) (v : Word) : State :=
  (memWrite (memWrite s (sub16 s.sp 1#16) (hiByte v)) (sub16 s.sp 2#16) (loByte v)).setSp (sub16 s.sp 2#16)

/-- The 16-bit value `Pop16()` returns: low byte at sp, high byte at sp+1 (R151). -/
def popValue (s : State) : Word := mkWord (memRead s (add16 s.sp 1#16)) (memRead s s.sp)

/-- The state `Pop16()` leaves: sp up by 2, memory as it was (R151). -/
def popState (s : State) : State := s.setSp (add16 s.sp 2#16)

/-! ### Fetch (45_misc.md R173) -/

/-- The instruction at pc: the byte at pc, and when it is the lead-in, the following byte looked up in the prefixed table. -/
def fetchInstr (s : State) : Instr :=
  if memRead s s.pc = config.prefixByte then decodeByte (memRead s (add16 s.pc 1#16)) true
  else decodeByte (memRead s s.pc) false

/-- Store bytes at ascending addresses through the bus, wrapping at 0xFFFF. -/
def storeBytes (s : State) (addr : Word) : List Byte → State
  | [] => s
  | v :: rest => storeBytes (memWrite s addr v) (add16 addr 1#16) rest

/-- Place an instruction's bytes at pc, followed by zeros up to the longest instruction, on a running core ([17]). -/
def placeInstr (s : State) (bytes : List Byte) : State :=
  storeBytes (s.setHalted false) s.pc ((bytes ++ [0x00, 0x00, 0x00]).take 3)

/-! ### Conditions (60_exceptions.md) -/

/-- `raise IllegalOpcode(pc, opcode, prefixed)`: report the condition and commit nothing (R181, R183). There is no trap
entry: nothing is saved, no mode changes, control goes nowhere (R188). -/
def raiseIllegalOpcode (s : State) (opcode : Byte) (isPrefixed : Bool) : Host.Outcome State Fault Refusal :=
  .fault (.illegalOpcode s.pc opcode isPrefixed)

/-- The numeric code of a condition (R182; D16). -/
def Fault.code : Fault → Nat
  | .illegalOpcode _ _ _ => 1
  | .unimplementedSemantics _ => 2

end Sys2Proof.Machine
end

