-- ==== Sys2Proof/Machine/Flags.lean ====
section
/-! DEFINITION. The flag byte (10_state.md R26) and the flag algebra of addition (40_alu_add.md R121, R122). -/

namespace Sys2Proof.Machine

/-- Packing: `F = z * 0x80 + n * 0x40 + h * 0x20 + c * 0x10` (R26). -/
def packF (f : Flags) : Byte :=
  (if f.z then 0x80 else 0) + (if f.n then 0x40 else 0) + (if f.h then 0x20 else 0) + (if f.c then 0x10 else 0)

/-- Unpacking: bits 7 to 4; the low nibble is ignored (R26). -/
def unpackF (v : Byte) : Flags where
  z := v.getLsbD 7
  n := v.getLsbD 6
  h := v.getLsbD 5
  c := v.getLsbD 4

/-- Half-carry of an addition: `a[3:0] + v[3:0] > 0xF` (R121). -/
def halfCarry (a v : Byte) : Bool := decide (a.toNat % 16 + v.toNat % 16 > 0xF)

/-- Carry of an addition: the exact sum exceeds 0xFF (R122). -/
def carryOut (a v : Byte) : Bool := decide (a.toNat + v.toNat > 0xFF)

/-- The wrapped sum: the exact sum modulo 256 (R120). -/
def wrapSum (a v : Byte) : Byte := BitVec.ofNat 8 (a.toNat + v.toNat)

/-- The four flags an addition writes (R123): zero always recomputed from the result (90_conflicts.md C1). -/
def addFlags (a v : Byte) : Flags where
  z := decide (wrapSum a v = 0)
  n := false
  h := halfCarry a v
  c := carryOut a v

end Sys2Proof.Machine
end

