-- ==== Sys2Proof/Machine/Operands.lean ====
section
/-! DEFINITION. The operand forms: registers (10_state.md R20), pairs (R22, R23), the byte at HL (42_load.md R140), immediates
(30_encoding.md R96, R97) and conditions (R94). -/

namespace Sys2Proof.Machine

/-- `r8[r]`. -/
def State.reg (s : State) : Reg8 → Byte
  | .B => s.b | .C => s.c | .D => s.d | .E => s.e | .H => s.h | .L => s.l | .A => s.a

/-- `r8[r] <- v`. -/
def State.setReg (s : State) (r : Reg8) (v : Byte) : State :=
  match r with
  | .B => { s with b := v }
  | .C => { s with c := v }
  | .D => { s with d := v }
  | .E => { s with e := v }
  | .H => { s with h := v }
  | .L => { s with l := v }
  | .A => { s with a := v }

/-- The first-named register of a pair, its high byte (R22). -/
def pairHi : Pair → Reg8
  | .BC => .B | .DE => .D | .HL => .H

/-- The second-named register of a pair, its low byte (R22). -/
def pairLo : Pair → Reg8
  | .BC => .C | .DE => .E | .HL => .L

/-- Reading a pair: `high * 256 + low` (R22). -/
def State.pair (s : State) (rr : Pair) : Word := mkWord (s.reg (pairHi rr)) (s.reg (pairLo rr))

/-- Writing a pair writes both halves (R22). -/
def State.setPair (s : State) (rr : Pair) (v : Word) : State :=
  (s.setReg (pairHi rr) (hiByte v)).setReg (pairLo rr) (loByte v)

/-- Reading AF: A above the packed flag byte (R23). -/
def State.af (s : State) : Word := mkWord s.a (packF s.flags)

/-- Writing AF: A and the four flags; the low four bits are dropped (R23). -/
def State.setAf (s : State) (v : Word) : State := (s.setReg .A (hiByte v)).setFlags (unpackF (loByte v))

/-- The effective address of (HL) (42_load.md R140). -/
def hlAddr (s : State) : Word := s.pair .HL

/-- The immediate d8: the byte after the opcode (R96). -/
def imm8 (s : State) : Byte := memRead s (add16 s.pc 1#16)

/-- The immediate a16: little-endian in the two bytes after the opcode (R97, R66). -/
def imm16 (s : State) : Word := mkWord (memRead s (add16 s.pc 2#16)) (memRead s (add16 s.pc 1#16))

/-- `cond(cc)` on the flags at the entry of the step (R94). -/
def condHolds (f : Flags) : Cond → Bool
  | .NZ => !f.z
  | .Z => f.z
  | .NC => !f.c
  | .C => f.c

end Sys2Proof.Machine
end

