-- ==== Sys2Proof/Machine/Alu.lean ====
section
/-! DEFINITION. ADD A,r (40_alu_add.md R123): the shared operation and one meaning per opcode. -/

namespace Sys2Proof.Machine

/-- ADD A,r: both operands read first; A takes the wrapped sum and all four flags are written (R123). -/
def addReg (r : Reg8) (s : State) : State :=
  advance ((s.setReg .A (wrapSum s.a (s.reg r))).setFlags (addFlags s.a (s.reg r))) 1#16

/-- ADD A,B (0x80): R123. -/
def execAdd_A_B (s : State) : Host.Outcome State Fault Refusal := .next (addReg .B s)

/-- ADD A,C (0x81): R123. -/
def execAdd_A_C (s : State) : Host.Outcome State Fault Refusal := .next (addReg .C s)

/-- ADD A,D (0x82): R123. -/
def execAdd_A_D (s : State) : Host.Outcome State Fault Refusal := .next (addReg .D s)

/-- ADD A,E (0x83): R123. -/
def execAdd_A_E (s : State) : Host.Outcome State Fault Refusal := .next (addReg .E s)

/-- ADD A,H (0x84): R123. -/
def execAdd_A_H (s : State) : Host.Outcome State Fault Refusal := .next (addReg .H s)

/-- ADD A,L (0x85): R123. -/
def execAdd_A_L (s : State) : Host.Outcome State Fault Refusal := .next (addReg .L s)

/-- ADD A,A (0x87): R123. -/
def execAdd_A_A (s : State) : Host.Outcome State Fault Refusal := .next (addReg .A s)

end Sys2Proof.Machine
end

