-- ==== Sys2Proof/Machine/CallRet.lean ====
section
/-! DEFINITION. CALL and RET (44_call_ret.md R160 to R165): the shared operations and one meaning per opcode. -/

namespace Sys2Proof.Machine

/-- The address of the instruction after a CALL (R160). -/
def returnAddr (s : State) : Word := add16 s.pc 3#16

/-- A taken CALL: push the return address, then jump to the immediate. The immediate is read after the push when
`immAfterPush`, else before it (R161, R163; D12; [4]). -/
def callTaken (immAfterPush : Bool) (s : State) : State :=
  let pushed := push16 s (returnAddr s)
  pushed.setPc (if immAfterPush then imm16 pushed else imm16 s)

/-- CALL a16 (R161). -/
def callImm (s : State) : State := callTaken config.callImmAfterPush s

/-- CALL cc,a16: not taken, nothing is pushed (R162). -/
def callCond (cc : Cond) (s : State) : State := if condHolds s.flags cc then callImm s else s.setPc (returnAddr s)

/-- RET (R164). -/
def retAlways (s : State) : State := (popState s).setPc (popValue s)

/-- RET cc: not taken, pc advances by 1 (R165). -/
def retCond (cc : Cond) (s : State) : State := if condHolds s.flags cc then retAlways s else advance s 1#16

/-- CALL a16 (0xCD): R161. -/
def execCall_a16 (s : State) : Host.Outcome State Fault Refusal := .next (callImm s)

/-- CALL NZ,a16 (0xC4): R162. -/
def execCall_NZ_a16 (s : State) : Host.Outcome State Fault Refusal := .next (callCond .NZ s)

/-- CALL Z,a16 (0xCC): R162. -/
def execCall_Z_a16 (s : State) : Host.Outcome State Fault Refusal := .next (callCond .Z s)

/-- CALL NC,a16 (0xD4): R162. -/
def execCall_NC_a16 (s : State) : Host.Outcome State Fault Refusal := .next (callCond .NC s)

/-- CALL C,a16 (0xDC): R162. -/
def execCall_C_a16 (s : State) : Host.Outcome State Fault Refusal := .next (callCond .C s)

/-- RET (0xC9): R164. -/
def execRet (s : State) : Host.Outcome State Fault Refusal := .next (retAlways s)

/-- RET NZ (0xC0): R165. -/
def execRet_NZ (s : State) : Host.Outcome State Fault Refusal := .next (retCond .NZ s)

/-- RET Z (0xC8): R165. -/
def execRet_Z (s : State) : Host.Outcome State Fault Refusal := .next (retCond .Z s)

/-- RET NC (0xD0): R165. -/
def execRet_NC (s : State) : Host.Outcome State Fault Refusal := .next (retCond .NC s)

/-- RET C (0xD8): R165. -/
def execRet_C (s : State) : Host.Outcome State Fault Refusal := .next (retCond .C s)

end Sys2Proof.Machine
end

