-- ==== Sys2Proof/Machine/Jump.lean ====
section
/-! DEFINITION. JP (41_jump.md R131, R132): two shared operations and one meaning per opcode. -/

namespace Sys2Proof.Machine

/-- JP a16 (R131). -/
def jumpImm (s : State) : State := s.setPc (imm16 s)

/-- JP cc,a16: not taken, pc moves past the two immediate bytes (R132). -/
def jumpCond (cc : Cond) (s : State) : State := if condHolds s.flags cc then jumpImm s else advance s 3#16

/-- JP a16 (0xC3): R131. -/
def execJp_a16 (s : State) : Host.Outcome State Fault Refusal := .next (jumpImm s)

/-- JP NZ,a16 (0xC2): R132. -/
def execJp_NZ_a16 (s : State) : Host.Outcome State Fault Refusal := .next (jumpCond .NZ s)

/-- JP Z,a16 (0xCA): R132. -/
def execJp_Z_a16 (s : State) : Host.Outcome State Fault Refusal := .next (jumpCond .Z s)

/-- JP NC,a16 (0xD2): R132. -/
def execJp_NC_a16 (s : State) : Host.Outcome State Fault Refusal := .next (jumpCond .NC s)

/-- JP C,a16 (0xDA): R132. -/
def execJp_C_a16 (s : State) : Host.Outcome State Fault Refusal := .next (jumpCond .C s)

end Sys2Proof.Machine
end

