-- ==== Sys2Proof/Machine/Load.lean ====
section
/-! DEFINITION. The byte loads (42_load.md R140 to R145): five shared operations and one meaning per opcode. -/

namespace Sys2Proof.Machine

/-- LD r,r' (R141). -/
def ldRegReg (d r : Reg8) (s : State) : State := advance (s.setReg d (s.reg r)) 1#16

/-- LD r,d8 (R142). -/
def ldRegImm (d : Reg8) (s : State) : State := advance (s.setReg d (imm8 s)) 2#16

/-- LD r,(HL): the address is formed before the register is written (R143). -/
def ldRegHl (d : Reg8) (s : State) : State := advance (s.setReg d (memRead s (hlAddr s))) 1#16

/-- LD (HL),r (R144). -/
def ldHlReg (r : Reg8) (s : State) : State := advance (memWrite s (hlAddr s) (s.reg r)) 1#16

/-- LD (HL),d8: the immediate is read before the write (R145). -/
def ldHlImm (s : State) : State := advance (memWrite s (hlAddr s) (imm8 s)) 2#16

/-- LD B,B (0x40): R141. -/
def execLd_B_B (s : State) : Host.Outcome State Fault Refusal := .next (ldRegReg .B .B s)

/-- LD B,C (0x41): R141. -/
def execLd_B_C (s : State) : Host.Outcome State Fault Refusal := .next (ldRegReg .B .C s)

/-- LD B,D (0x42): R141. -/
def execLd_B_D (s : State) : Host.Outcome State Fault Refusal := .next (ldRegReg .B .D s)

/-- LD B,E (0x43): R141. -/
def execLd_B_E (s : State) : Host.Outcome State Fault Refusal := .next (ldRegReg .B .E s)

/-- LD B,H (0x44): R141. -/
def execLd_B_H (s : State) : Host.Outcome State Fault Refusal := .next (ldRegReg .B .H s)

/-- LD B,L (0x45): R141. -/
def execLd_B_L (s : State) : Host.Outcome State Fault Refusal := .next (ldRegReg .B .L s)

/-- LD B,A (0x47): R141. -/
def execLd_B_A (s : State) : Host.Outcome State Fault Refusal := .next (ldRegReg .B .A s)

/-- LD C,B (0x48): R141. -/
def execLd_C_B (s : State) : Host.Outcome State Fault Refusal := .next (ldRegReg .C .B s)

/-- LD C,C (0x49): R141. -/
def execLd_C_C (s : State) : Host.Outcome State Fault Refusal := .next (ldRegReg .C .C s)

/-- LD C,D (0x4A): R141. -/
def execLd_C_D (s : State) : Host.Outcome State Fault Refusal := .next (ldRegReg .C .D s)

/-- LD C,E (0x4B): R141. -/
def execLd_C_E (s : State) : Host.Outcome State Fault Refusal := .next (ldRegReg .C .E s)

/-- LD C,H (0x4C): R141. -/
def execLd_C_H (s : State) : Host.Outcome State Fault Refusal := .next (ldRegReg .C .H s)

/-- LD C,L (0x4D): R141. -/
def execLd_C_L (s : State) : Host.Outcome State Fault Refusal := .next (ldRegReg .C .L s)

/-- LD C,A (0x4F): R141. -/
def execLd_C_A (s : State) : Host.Outcome State Fault Refusal := .next (ldRegReg .C .A s)

/-- LD D,B (0x50): R141. -/
def execLd_D_B (s : State) : Host.Outcome State Fault Refusal := .next (ldRegReg .D .B s)

/-- LD D,C (0x51): R141. -/
def execLd_D_C (s : State) : Host.Outcome State Fault Refusal := .next (ldRegReg .D .C s)

/-- LD D,D (0x52): R141. -/
def execLd_D_D (s : State) : Host.Outcome State Fault Refusal := .next (ldRegReg .D .D s)

/-- LD D,E (0x53): R141. -/
def execLd_D_E (s : State) : Host.Outcome State Fault Refusal := .next (ldRegReg .D .E s)

/-- LD D,H (0x54): R141. -/
def execLd_D_H (s : State) : Host.Outcome State Fault Refusal := .next (ldRegReg .D .H s)

/-- LD D,L (0x55): R141. -/
def execLd_D_L (s : State) : Host.Outcome State Fault Refusal := .next (ldRegReg .D .L s)

/-- LD D,A (0x57): R141. -/
def execLd_D_A (s : State) : Host.Outcome State Fault Refusal := .next (ldRegReg .D .A s)

/-- LD E,B (0x58): R141. -/
def execLd_E_B (s : State) : Host.Outcome State Fault Refusal := .next (ldRegReg .E .B s)

/-- LD E,C (0x59): R141. -/
def execLd_E_C (s : State) : Host.Outcome State Fault Refusal := .next (ldRegReg .E .C s)

/-- LD E,D (0x5A): R141. -/
def execLd_E_D (s : State) : Host.Outcome State Fault Refusal := .next (ldRegReg .E .D s)

/-- LD E,E (0x5B): R141. -/
def execLd_E_E (s : State) : Host.Outcome State Fault Refusal := .next (ldRegReg .E .E s)

/-- LD E,H (0x5C): R141. -/
def execLd_E_H (s : State) : Host.Outcome State Fault Refusal := .next (ldRegReg .E .H s)

/-- LD E,L (0x5D): R141. -/
def execLd_E_L (s : State) : Host.Outcome State Fault Refusal := .next (ldRegReg .E .L s)

/-- LD E,A (0x5F): R141. -/
def execLd_E_A (s : State) : Host.Outcome State Fault Refusal := .next (ldRegReg .E .A s)

/-- LD H,B (0x60): R141. -/
def execLd_H_B (s : State) : Host.Outcome State Fault Refusal := .next (ldRegReg .H .B s)

/-- LD H,C (0x61): R141. -/
def execLd_H_C (s : State) : Host.Outcome State Fault Refusal := .next (ldRegReg .H .C s)

/-- LD H,D (0x62): R141. -/
def execLd_H_D (s : State) : Host.Outcome State Fault Refusal := .next (ldRegReg .H .D s)

/-- LD H,E (0x63): R141. -/
def execLd_H_E (s : State) : Host.Outcome State Fault Refusal := .next (ldRegReg .H .E s)

/-- LD H,H (0x64): R141. -/
def execLd_H_H (s : State) : Host.Outcome State Fault Refusal := .next (ldRegReg .H .H s)

/-- LD H,L (0x65): R141. -/
def execLd_H_L (s : State) : Host.Outcome State Fault Refusal := .next (ldRegReg .H .L s)

/-- LD H,A (0x67): R141. -/
def execLd_H_A (s : State) : Host.Outcome State Fault Refusal := .next (ldRegReg .H .A s)

/-- LD L,B (0x68): R141. -/
def execLd_L_B (s : State) : Host.Outcome State Fault Refusal := .next (ldRegReg .L .B s)

/-- LD L,C (0x69): R141. -/
def execLd_L_C (s : State) : Host.Outcome State Fault Refusal := .next (ldRegReg .L .C s)

/-- LD L,D (0x6A): R141. -/
def execLd_L_D (s : State) : Host.Outcome State Fault Refusal := .next (ldRegReg .L .D s)

/-- LD L,E (0x6B): R141. -/
def execLd_L_E (s : State) : Host.Outcome State Fault Refusal := .next (ldRegReg .L .E s)

/-- LD L,H (0x6C): R141. -/
def execLd_L_H (s : State) : Host.Outcome State Fault Refusal := .next (ldRegReg .L .H s)

/-- LD L,L (0x6D): R141. -/
def execLd_L_L (s : State) : Host.Outcome State Fault Refusal := .next (ldRegReg .L .L s)

/-- LD L,A (0x6F): R141. -/
def execLd_L_A (s : State) : Host.Outcome State Fault Refusal := .next (ldRegReg .L .A s)

/-- LD A,B (0x78): R141. -/
def execLd_A_B (s : State) : Host.Outcome State Fault Refusal := .next (ldRegReg .A .B s)

/-- LD A,C (0x79): R141. -/
def execLd_A_C (s : State) : Host.Outcome State Fault Refusal := .next (ldRegReg .A .C s)

/-- LD A,D (0x7A): R141. -/
def execLd_A_D (s : State) : Host.Outcome State Fault Refusal := .next (ldRegReg .A .D s)

/-- LD A,E (0x7B): R141. -/
def execLd_A_E (s : State) : Host.Outcome State Fault Refusal := .next (ldRegReg .A .E s)

/-- LD A,H (0x7C): R141. -/
def execLd_A_H (s : State) : Host.Outcome State Fault Refusal := .next (ldRegReg .A .H s)

/-- LD A,L (0x7D): R141. -/
def execLd_A_L (s : State) : Host.Outcome State Fault Refusal := .next (ldRegReg .A .L s)

/-- LD A,A (0x7F): R141. -/
def execLd_A_A (s : State) : Host.Outcome State Fault Refusal := .next (ldRegReg .A .A s)

/-- LD B,d8 (0x06): R142. -/
def execLd_B_d8 (s : State) : Host.Outcome State Fault Refusal := .next (ldRegImm .B s)

/-- LD C,d8 (0x0E): R142. -/
def execLd_C_d8 (s : State) : Host.Outcome State Fault Refusal := .next (ldRegImm .C s)

/-- LD D,d8 (0x16): R142. -/
def execLd_D_d8 (s : State) : Host.Outcome State Fault Refusal := .next (ldRegImm .D s)

/-- LD E,d8 (0x1E): R142. -/
def execLd_E_d8 (s : State) : Host.Outcome State Fault Refusal := .next (ldRegImm .E s)

/-- LD H,d8 (0x26): R142. -/
def execLd_H_d8 (s : State) : Host.Outcome State Fault Refusal := .next (ldRegImm .H s)

/-- LD L,d8 (0x2E): R142. -/
def execLd_L_d8 (s : State) : Host.Outcome State Fault Refusal := .next (ldRegImm .L s)

/-- LD A,d8 (0x3E): R142. -/
def execLd_A_d8 (s : State) : Host.Outcome State Fault Refusal := .next (ldRegImm .A s)

/-- LD B,(HL) (0x46): R143. -/
def execLd_B_atHL (s : State) : Host.Outcome State Fault Refusal := .next (ldRegHl .B s)

/-- LD C,(HL) (0x4E): R143. -/
def execLd_C_atHL (s : State) : Host.Outcome State Fault Refusal := .next (ldRegHl .C s)

/-- LD D,(HL) (0x56): R143. -/
def execLd_D_atHL (s : State) : Host.Outcome State Fault Refusal := .next (ldRegHl .D s)

/-- LD E,(HL) (0x5E): R143. -/
def execLd_E_atHL (s : State) : Host.Outcome State Fault Refusal := .next (ldRegHl .E s)

/-- LD H,(HL) (0x66): R143. -/
def execLd_H_atHL (s : State) : Host.Outcome State Fault Refusal := .next (ldRegHl .H s)

/-- LD L,(HL) (0x6E): R143. -/
def execLd_L_atHL (s : State) : Host.Outcome State Fault Refusal := .next (ldRegHl .L s)

/-- LD A,(HL) (0x7E): R143. -/
def execLd_A_atHL (s : State) : Host.Outcome State Fault Refusal := .next (ldRegHl .A s)

/-- LD (HL),B (0x70): R144. -/
def execLd_atHL_B (s : State) : Host.Outcome State Fault Refusal := .next (ldHlReg .B s)

/-- LD (HL),C (0x71): R144. -/
def execLd_atHL_C (s : State) : Host.Outcome State Fault Refusal := .next (ldHlReg .C s)

/-- LD (HL),D (0x72): R144. -/
def execLd_atHL_D (s : State) : Host.Outcome State Fault Refusal := .next (ldHlReg .D s)

/-- LD (HL),E (0x73): R144. -/
def execLd_atHL_E (s : State) : Host.Outcome State Fault Refusal := .next (ldHlReg .E s)

/-- LD (HL),H (0x74): R144. -/
def execLd_atHL_H (s : State) : Host.Outcome State Fault Refusal := .next (ldHlReg .H s)

/-- LD (HL),L (0x75): R144. -/
def execLd_atHL_L (s : State) : Host.Outcome State Fault Refusal := .next (ldHlReg .L s)

/-- LD (HL),A (0x77): R144. -/
def execLd_atHL_A (s : State) : Host.Outcome State Fault Refusal := .next (ldHlReg .A s)

/-- LD (HL),d8 (0x36): R145. -/
def execLd_atHL_d8 (s : State) : Host.Outcome State Fault Refusal := .next (ldHlImm s)

end Sys2Proof.Machine
end

