-- ==== Sys2Proof/Machine/Misc.lean ====
section
/-! DEFINITION. NOP, HALT (45_misc.md R170, R171), the lead-in (R174) and the unimplemented slots (30_encoding.md R100, R101). -/

namespace Sys2Proof.Machine

/-- NOP (R170). -/
def nopStep (s : State) : State := advance s 1#16

/-- HALT: pc stays on the HALT byte (R171; 90_conflicts.md C6; [5]). -/
def haltStep (s : State) : State := s.setHalted true

/-- NOP (0x00): R170. -/
def execNop (s : State) : Host.Outcome State Fault Refusal := .next (nopStep s)

/-- HALT (0x76): R171. -/
def execHalt (s : State) : Host.Outcome State Fault Refusal := .next (haltStep s)

/-- PREFIX, the lead-in byte standing alone (0xCB): the following byte is looked up in the prefixed table, where every slot
is unimplemented (R174). -/
def execPrefixLeadIn (s : State) : Host.Outcome State Fault Refusal :=
  raiseIllegalOpcode s (memRead s (add16 s.pc 1#16)) true

/-- ILLEGAL: an unimplemented primary slot raises IllegalOpcode with the byte (R100). -/
def execIllegal (b : Byte) (s : State) : Host.Outcome State Fault Refusal := raiseIllegalOpcode s b false

/-- ILLEGAL_PREFIXED: an unimplemented prefixed slot raises IllegalOpcode with the second byte (R101). -/
def execIllegalPrefixed (b : Byte) (s : State) : Host.Outcome State Fault Refusal := raiseIllegalOpcode s b true

end Sys2Proof.Machine
end

