-- ==== Sys2Proof/Machine/Stack.lean ====
section
/-! DEFINITION. PUSH and POP (43_stack.md R152 to R155): four shared operations and one meaning per opcode. -/

namespace Sys2Proof.Machine

/-- PUSH rr (R152). -/
def pushPair (rr : Pair) (s : State) : State := advance (push16 s (s.pair rr)) 1#16

/-- PUSH AF (R153). -/
def pushAf (s : State) : State := advance (push16 s s.af) 1#16

/-- POP rr (R154). -/
def popPair (rr : Pair) (s : State) : State := advance ((popState s).setPair rr (popValue s)) 1#16

/-- POP AF (R155). -/
def popAf (s : State) : State := advance ((popState s).setAf (popValue s)) 1#16

/-- PUSH BC (0xC5): R152. -/
def execPush_BC (s : State) : Host.Outcome State Fault Refusal := .next (pushPair .BC s)

/-- PUSH DE (0xD5): R152. -/
def execPush_DE (s : State) : Host.Outcome State Fault Refusal := .next (pushPair .DE s)

/-- PUSH HL (0xE5): R152. -/
def execPush_HL (s : State) : Host.Outcome State Fault Refusal := .next (pushPair .HL s)

/-- PUSH AF (0xF5): R153. -/
def execPush_AF (s : State) : Host.Outcome State Fault Refusal := .next (pushAf s)

/-- POP BC (0xC1): R154. -/
def execPop_BC (s : State) : Host.Outcome State Fault Refusal := .next (popPair .BC s)

/-- POP DE (0xD1): R154. -/
def execPop_DE (s : State) : Host.Outcome State Fault Refusal := .next (popPair .DE s)

/-- POP HL (0xE1): R154. -/
def execPop_HL (s : State) : Host.Outcome State Fault Refusal := .next (popPair .HL s)

/-- POP AF (0xF1): R155. -/
def execPop_AF (s : State) : Host.Outcome State Fault Refusal := .next (popAf s)

end Sys2Proof.Machine
end

