-- ==== Sys2Proof/Machine/Dispatch.lean ====
section
/-! DEFINITION. The dispatch: one arm per constructor of `Instr`, each one call of that instruction's meaning (45_misc.md
R173: "`execute()` dispatches by instruction variant"). -/

namespace Sys2Proof.Machine

/-- The execution of one decoded instruction. -/
def exec (i : Instr) (s : State) : Host.Outcome State Fault Refusal :=
  match i with
  | .add_A_B => Sys2Proof.Machine.execAdd_A_B s
  | .add_A_C => Sys2Proof.Machine.execAdd_A_C s
  | .add_A_D => Sys2Proof.Machine.execAdd_A_D s
  | .add_A_E => Sys2Proof.Machine.execAdd_A_E s
  | .add_A_H => Sys2Proof.Machine.execAdd_A_H s
  | .add_A_L => Sys2Proof.Machine.execAdd_A_L s
  | .add_A_A => Sys2Proof.Machine.execAdd_A_A s
  | .ld_B_B => Sys2Proof.Machine.execLd_B_B s
  | .ld_B_C => Sys2Proof.Machine.execLd_B_C s
  | .ld_B_D => Sys2Proof.Machine.execLd_B_D s
  | .ld_B_E => Sys2Proof.Machine.execLd_B_E s
  | .ld_B_H => Sys2Proof.Machine.execLd_B_H s
  | .ld_B_L => Sys2Proof.Machine.execLd_B_L s
  | .ld_B_A => Sys2Proof.Machine.execLd_B_A s
  | .ld_C_B => Sys2Proof.Machine.execLd_C_B s
  | .ld_C_C => Sys2Proof.Machine.execLd_C_C s
  | .ld_C_D => Sys2Proof.Machine.execLd_C_D s
  | .ld_C_E => Sys2Proof.Machine.execLd_C_E s
  | .ld_C_H => Sys2Proof.Machine.execLd_C_H s
  | .ld_C_L => Sys2Proof.Machine.execLd_C_L s
  | .ld_C_A => Sys2Proof.Machine.execLd_C_A s
  | .ld_D_B => Sys2Proof.Machine.execLd_D_B s
  | .ld_D_C => Sys2Proof.Machine.execLd_D_C s
  | .ld_D_D => Sys2Proof.Machine.execLd_D_D s
  | .ld_D_E => Sys2Proof.Machine.execLd_D_E s
  | .ld_D_H => Sys2Proof.Machine.execLd_D_H s
  | .ld_D_L => Sys2Proof.Machine.execLd_D_L s
  | .ld_D_A => Sys2Proof.Machine.execLd_D_A s
  | .ld_E_B => Sys2Proof.Machine.execLd_E_B s
  | .ld_E_C => Sys2Proof.Machine.execLd_E_C s
  | .ld_E_D => Sys2Proof.Machine.execLd_E_D s
  | .ld_E_E => Sys2Proof.Machine.execLd_E_E s
  | .ld_E_H => Sys2Proof.Machine.execLd_E_H s
  | .ld_E_L => Sys2Proof.Machine.execLd_E_L s
  | .ld_E_A => Sys2Proof.Machine.execLd_E_A s
  | .ld_H_B => Sys2Proof.Machine.execLd_H_B s
  | .ld_H_C => Sys2Proof.Machine.execLd_H_C s
  | .ld_H_D => Sys2Proof.Machine.execLd_H_D s
  | .ld_H_E => Sys2Proof.Machine.execLd_H_E s
  | .ld_H_H => Sys2Proof.Machine.execLd_H_H s
  | .ld_H_L => Sys2Proof.Machine.execLd_H_L s
  | .ld_H_A => Sys2Proof.Machine.execLd_H_A s
  | .ld_L_B => Sys2Proof.Machine.execLd_L_B s
  | .ld_L_C => Sys2Proof.Machine.execLd_L_C s
  | .ld_L_D => Sys2Proof.Machine.execLd_L_D s
  | .ld_L_E => Sys2Proof.Machine.execLd_L_E s
  | .ld_L_H => Sys2Proof.Machine.execLd_L_H s
  | .ld_L_L => Sys2Proof.Machine.execLd_L_L s
  | .ld_L_A => Sys2Proof.Machine.execLd_L_A s
  | .ld_A_B => Sys2Proof.Machine.execLd_A_B s
  | .ld_A_C => Sys2Proof.Machine.execLd_A_C s
  | .ld_A_D => Sys2Proof.Machine.execLd_A_D s
  | .ld_A_E => Sys2Proof.Machine.execLd_A_E s
  | .ld_A_H => Sys2Proof.Machine.execLd_A_H s
  | .ld_A_L => Sys2Proof.Machine.execLd_A_L s
  | .ld_A_A => Sys2Proof.Machine.execLd_A_A s
  | .ld_B_d8 => Sys2Proof.Machine.execLd_B_d8 s
  | .ld_C_d8 => Sys2Proof.Machine.execLd_C_d8 s
  | .ld_D_d8 => Sys2Proof.Machine.execLd_D_d8 s
  | .ld_E_d8 => Sys2Proof.Machine.execLd_E_d8 s
  | .ld_H_d8 => Sys2Proof.Machine.execLd_H_d8 s
  | .ld_L_d8 => Sys2Proof.Machine.execLd_L_d8 s
  | .ld_A_d8 => Sys2Proof.Machine.execLd_A_d8 s
  | .ld_B_atHL => Sys2Proof.Machine.execLd_B_atHL s
  | .ld_C_atHL => Sys2Proof.Machine.execLd_C_atHL s
  | .ld_D_atHL => Sys2Proof.Machine.execLd_D_atHL s
  | .ld_E_atHL => Sys2Proof.Machine.execLd_E_atHL s
  | .ld_H_atHL => Sys2Proof.Machine.execLd_H_atHL s
  | .ld_L_atHL => Sys2Proof.Machine.execLd_L_atHL s
  | .ld_A_atHL => Sys2Proof.Machine.execLd_A_atHL s
  | .ld_atHL_B => Sys2Proof.Machine.execLd_atHL_B s
  | .ld_atHL_C => Sys2Proof.Machine.execLd_atHL_C s
  | .ld_atHL_D => Sys2Proof.Machine.execLd_atHL_D s
  | .ld_atHL_E => Sys2Proof.Machine.execLd_atHL_E s
  | .ld_atHL_H => Sys2Proof.Machine.execLd_atHL_H s
  | .ld_atHL_L => Sys2Proof.Machine.execLd_atHL_L s
  | .ld_atHL_A => Sys2Proof.Machine.execLd_atHL_A s
  | .ld_atHL_d8 => Sys2Proof.Machine.execLd_atHL_d8 s
  | .jp_a16 => Sys2Proof.Machine.execJp_a16 s
  | .jp_NZ_a16 => Sys2Proof.Machine.execJp_NZ_a16 s
  | .jp_Z_a16 => Sys2Proof.Machine.execJp_Z_a16 s
  | .jp_NC_a16 => Sys2Proof.Machine.execJp_NC_a16 s
  | .jp_C_a16 => Sys2Proof.Machine.execJp_C_a16 s
  | .push_BC => Sys2Proof.Machine.execPush_BC s
  | .push_DE => Sys2Proof.Machine.execPush_DE s
  | .push_HL => Sys2Proof.Machine.execPush_HL s
  | .push_AF => Sys2Proof.Machine.execPush_AF s
  | .pop_BC => Sys2Proof.Machine.execPop_BC s
  | .pop_DE => Sys2Proof.Machine.execPop_DE s
  | .pop_HL => Sys2Proof.Machine.execPop_HL s
  | .pop_AF => Sys2Proof.Machine.execPop_AF s
  | .call_a16 => Sys2Proof.Machine.execCall_a16 s
  | .call_NZ_a16 => Sys2Proof.Machine.execCall_NZ_a16 s
  | .call_Z_a16 => Sys2Proof.Machine.execCall_Z_a16 s
  | .call_NC_a16 => Sys2Proof.Machine.execCall_NC_a16 s
  | .call_C_a16 => Sys2Proof.Machine.execCall_C_a16 s
  | .ret => Sys2Proof.Machine.execRet s
  | .ret_NZ => Sys2Proof.Machine.execRet_NZ s
  | .ret_Z => Sys2Proof.Machine.execRet_Z s
  | .ret_NC => Sys2Proof.Machine.execRet_NC s
  | .ret_C => Sys2Proof.Machine.execRet_C s
  | .nop => Sys2Proof.Machine.execNop s
  | .halt => Sys2Proof.Machine.execHalt s
  | .prefixLeadIn => Sys2Proof.Machine.execPrefixLeadIn s
  | .illegal b => Sys2Proof.Machine.execIllegal b s
  | .illegalPrefixed b => Sys2Proof.Machine.execIllegalPrefixed b s

end Sys2Proof.Machine
end

