-- ==== Sys2Proof/Machine/Step.lean ====
section
/-! DEFINITION. One step of CORE (45_misc.md R172, R173), and an instruction stored where the next step fetches it. -/

namespace Sys2Proof.Machine

/-- `step()`: a halted core does nothing; otherwise the instruction at pc is fetched, decoded and executed (R172, R173). -/
def step (s : State) : Host.Outcome State Fault Refusal :=
  if s.halted then .next s else exec (fetchInstr s) s

/-- `s` with the instruction of an opcode-table word stored at pc and the core running ([17]). -/
def State.withFetchWord (s : State) (nbits w : Nat) : State := placeInstr s (tableBytes nbits w)

end Sys2Proof.Machine
end

