-- ==== Sys2Proof/Machine/Ports.lean ====
section
/-! DEFINITION. The interfaces of CORE at transaction level (60_exceptions.md R199): what the host and the environment can do
between steps, each one atomic transaction ([12]). -/

namespace Sys2Proof.Machine

/-- The wake event: halted becomes running, nothing else changes (R191). -/
def wake (s : State) : State := s.setHalted false

/-- The `halted` status output (R190). -/
def haltedStatus (s : State) : Bool := s.halted

/-- Whether `BulkLoad(start, bytes)` stays inside the address space (20_memory.md R76; D13). -/
def bulkLoadFits (start : Word) (bytes : List Byte) : Bool := decide (start.toNat + bytes.length ≤ config.plainSize)

/-- Whether TileRead's indices are in range (R65). -/
def tileInRange (t r c : Nat) : Bool :=
  decide (t < config.tileCount ∧ r < config.tileRows ∧ c < config.tileCols)

/-- The inputs of CORE (R199). -/
inductive Input where
  | powerOnReset
  | step
  | wake
  | bulkLoad (start : Word) (bytes : List Byte)
  | readByte (addr : Word)
  | writeByte (addr : Word) (v : Byte)
  | tileRead (t r c : Nat)
  deriving DecidableEq, Repr

/-- The outputs of CORE (R199): the outcome of a step (R180), the byte or shade read, a refusal, or completion. -/
inductive Output where
  | ok
  | condition (f : Fault)
  | byte (v : Byte)
  | pixel (v : Shade)
  | refused (r : Refusal)
  deriving DecidableEq, Repr

/-- One call of `step` as the caller sees it: `Ok` with the committed state, or a condition with the state unchanged, so a
further call reports the same condition again (R180, R181, R189). -/
def stepPort (s : State) : Output × State :=
  match step s with
  | .next t => (.ok, t)
  | .fault f => (.condition f, s)
  | .refused r => (.refused r, s)

/-- `BulkLoad(start, bytes)`: bus writes at ascending addresses, or refused whole (R76). -/
def bulkLoadPort (start : Word) (bytes : List Byte) (s : State) : Output × State :=
  if bulkLoadFits start bytes then (.ok, storeBytes s start bytes) else (.refused .bulkLoadPastEnd, s)

/-- `TileRead(t, r, c)` (R65). -/
def tileReadPort (t r c : Nat) (s : State) : Output × State :=
  if tileInRange t r c then (.pixel (tilePixel s t r c), s) else (.refused .tileIndexOutOfRange, s)

/-- One transaction (R199). Host byte access goes through the bus like an instruction's (20_memory.md R77). -/
def transact (i : Input) (s : State) : Output × State :=
  match i with
  | .powerOnReset => (.ok, State.reset)
  | .step => stepPort s
  | .wake => (.ok, wake s)
  | .bulkLoad start bytes => bulkLoadPort start bytes s
  | .readByte addr => (.byte (memRead s addr), s)
  | .writeByte addr v => (.ok, memWrite s addr v)
  | .tileRead t r c => tileReadPort t r c s

/-- A session: transactions one after another (R216). -/
def session : List Input → State → State
  | [], s => s
  | i :: rest, s => session rest (transact i s).2

/-- Which transactions a run admits (00_scope.md R4 `env_wakes` and `host_writes`; 70_reset_and_hazards.md R225): steps and
reads always, a wake or a host write only where the configuration says so, a reset never. -/
def runAdmits : Input → Bool
  | .step | .readByte _ | .tileRead _ _ _ => true
  | .wake => config.envWakes
  | .bulkLoad _ _ | .writeByte _ _ => config.hostWrites
  | .powerOnReset => false

end Sys2Proof.Machine
end

