-- ==== Sys2Proof/Safety.lean ====
section
/-! DEFINITION. What claims are stated in: the invariants of 10_state.md R38, R39 and R41, and how a run ends
(70_reset_and_hazards.md R225). -/

namespace Sys2Proof.Machine

/-- The tile cache agrees with raw video memory (R38): every pixel is the shade of its two plane bits, low plane at the even
byte of its row and high plane at the odd byte. -/
def TilesCoherent (s : State) : Prop :=
  ∀ t r c : Nat, t < config.tileCount → r < config.tileRows → c < config.tileCols →
    tilePixel s t r c =
      shade ((vramByte s (16 * t + 2 * r + 1)).getLsbD (7 - c)) ((vramByte s (16 * t + 2 * r)).getLsbD (7 - c))

/-- The shadow slots of plain storage hold their reset value (R39). -/
def ShadowUntouched (s : State) : Prop :=
  ∀ index : Nat, config.vramBase ≤ index → index ≤ config.vramLast → plainByte s index = unwrittenByte

/-- Every storage is a canonical list inside its own index range. -/
def StorageWf (s : State) : Prop :=
  Memory.wf s.plain = true ∧ Memory.wf s.vram = true ∧ Store.wf unwrittenShade s.tiles = true ∧
  (∀ entry ∈ s.plain, entry.1 < config.plainSize) ∧ (∀ entry ∈ s.vram, entry.1 < config.vramSize) ∧
  (∀ entry ∈ s.tiles, entry.1 < config.tileCount * config.tileRows * config.tileCols)

/-- The invariant at every step boundary (R41, with R39 and the canonical form of the model's storages). The clauses of R41
on pair views, the low nibble of F, the range of pc and sp and the owner of an address hold in every state by the types. -/
structure Inv (s : State) : Prop where
  storage : StorageWf s
  tiles : TilesCoherent s
  shadow : ShadowUntouched s

/-- A run has ended normally: a step has executed HALT (R225 a). -/
def NormalEnd (s : State) : Prop := s.halted = true

/-- A run has ended abnormally: the next step reports a condition (R225 b). -/
def AbnormalEnd (s : State) : Prop := ∃ f, step s = .fault f

/-- A run of `n` steps that meets no condition. -/
def SafeRun (n : Nat) (s : State) : Prop := ∃ t, Host.Core.run Sys2Proof.core n s = .next t

/-! ### The complete tables of 10_state.md, by form -/

/-- Every general register outside `ds` is as before, and so is the run state. -/
def OtherRegsSame (ds : List Reg8) (s t : State) : Prop := (∀ q, q ∉ ds → t.reg q = s.reg q) ∧ t.halted = s.halted

/-- All of memory and the tile cache are as before. -/
def MemorySame (s t : State) : Prop :=
  (∀ y, memRead t y = memRead s y) ∧ t.plain = s.plain ∧ t.vram = s.vram ∧ t.tiles = s.tiles

/-- The general registers a form writes (R21). -/
def formWrites : Form → List Reg8
  | .addReg _ | .popAf => [.A]
  | .ldRegReg d _ | .ldRegImm d | .ldRegHl d => [d]
  | .popPair .BC => [.B, .C]
  | .popPair .DE => [.D, .E]
  | .popPair .HL => [.H, .L]
  | .ldHlReg _ | .ldHlImm | .jp | .jpCond _ | .pushPair _ | .pushAf => []
  | .call | .callCond _ | .ret | .retCond _ | .nop | .halt => []
  | .prefixLeadIn | .illegal _ | .illegalPrefixed _ => []

/-- The addresses a form stores a byte to (R36). -/
def formStores : Form → State → List Word
  | .ldHlReg _, s | .ldHlImm, s => [hlAddr s]
  | .pushPair _, s | .pushAf, s | .call, s => [sub16 s.sp 1#16, sub16 s.sp 2#16]
  | .callCond cc, s => if condHolds s.flags cc then [sub16 s.sp 1#16, sub16 s.sp 2#16] else []
  | .addReg _, _ | .ldRegReg _ _, _ | .ldRegImm _, _ | .ldRegHl _, _ | .jp, _ | .jpCond _, _ => []
  | .popPair _, _ | .popAf, _ | .ret, _ | .retCond _, _ | .nop, _ | .halt, _ => []
  | .prefixLeadIn, _ | .illegal _, _ | .illegalPrefixed _, _ => []

/-- The next sp of each form (R30): pushes and taken calls take 2 away, pops and taken returns add 2. -/
def formSp : Form → State → Word
  | .pushPair _, s | .pushAf, s | .call, s => sub16 s.sp 2#16
  | .callCond cc, s => if condHolds s.flags cc then sub16 s.sp 2#16 else s.sp
  | .popPair _, s | .popAf, s | .ret, s => add16 s.sp 2#16
  | .retCond cc, s => if condHolds s.flags cc then add16 s.sp 2#16 else s.sp
  | .addReg _, s | .ldRegReg _ _, s | .ldRegImm _, s | .ldRegHl _, s | .ldHlReg _, s | .ldHlImm, s => s.sp
  | .jp, s | .jpCond _, s | .nop, s | .halt, s => s.sp
  | .prefixLeadIn, s | .illegal _, s | .illegalPrefixed _, s => s.sp

/-- The little-endian 16-bit value of the two bytes after the opcode of `s`, as memory `m` holds them (30_encoding.md R97). -/
def immediateIn (m s : State) : Word :=
  BitVec.ofNat 16 ((memRead m (add16 s.pc 2#16)).toNat * 256 + (memRead m (add16 s.pc 1#16)).toNat)

/-- The little-endian 16-bit value at the top of the stack (43_stack.md R151). -/
def stackTop (s : State) : Word :=
  BitVec.ofNat 16 ((memRead s (add16 s.sp 1#16)).toNat * 256 + (memRead s s.sp).toNat)

/-- The next-pc table (R29). A taken CALL's immediate is as memory holds it after the push (44_call_ret.md R161), that is in
`t`, the state the instruction commits. -/
def formPc : Form → (s t : State) → Word
  | .addReg _, s, _ | .ldRegReg _ _, s, _ | .ldRegHl _, s, _ | .ldHlReg _, s, _ => add16 s.pc 1#16
  | .ldRegImm _, s, _ | .ldHlImm, s, _ => add16 s.pc 2#16
  | .jp, s, _ => immediateIn s s
  | .jpCond cc, s, _ => if condHolds s.flags cc then immediateIn s s else add16 s.pc 3#16
  | .pushPair _, s, _ | .pushAf, s, _ | .popPair _, s, _ | .popAf, s, _ => add16 s.pc 1#16
  | .call, s, t => immediateIn t s
  | .callCond cc, s, t => if condHolds s.flags cc then immediateIn t s else add16 s.pc 3#16
  | .ret, s, _ => stackTop s
  | .retCond cc, s, _ => if condHolds s.flags cc then stackTop s else add16 s.pc 1#16
  | .nop, s, _ => add16 s.pc 1#16
  | .halt, s, _ => s.pc
  | .prefixLeadIn, s, _ | .illegal _, s, _ | .illegalPrefixed _, s, _ => s.pc

/-- What a taken CALL commits in `t` (R161): the return address at sp-1 and sp-2, sp down by 2, pc the immediate as memory
stands after the push, every other byte, register and flag as before, the storages those of the two writes. -/
def CallEffect (s t : State) : Prop :=
  memRead t (sub16 s.sp 1#16) = hiByte (add16 s.pc 3#16) ∧ memRead t (sub16 s.sp 2#16) = loByte (add16 s.pc 3#16) ∧
  (∀ y, y ≠ sub16 s.sp 1#16 → y ≠ sub16 s.sp 2#16 → memRead t y = memRead s y) ∧
  t.sp = sub16 s.sp 2#16 ∧ t.pc = immediateIn t s ∧ OtherRegsSame [] s t ∧ t.flags = s.flags ∧
  t.plain = (push16 s (add16 s.pc 3#16)).plain ∧ t.vram = (push16 s (add16 s.pc 3#16)).vram ∧
  t.tiles = (push16 s (add16 s.pc 3#16)).tiles

end Sys2Proof.Machine
end

