-- ==== Sys2Proof/Certificates/Slice0/Obligations.lean ====
section
/-! DEFINITION. The statements for the provers, each a rule of spec/ or a consequence of rules. -/

open Sys2Proof Sys2Proof.Machine

/-! ### Encoding (30_encoding.md) -/

/-- Every well-formed instruction decodes from its own encoding, whatever bytes follow; the lead-in standing alone is
the one that a following byte would turn into a prefixed opcode (R98, R103, R107). -/
def Obligations.DecodeOfEncodeIsTheInstruction : Prop :=
  ∀ i : Instr, i.wf = true →
    decode (encode i) = .ok (i, []) ∧
    ∀ rest : List Byte, i ≠ .prefixLeadIn → decode (encode i ++ rest) = .ok (i, rest)

/-- What the decoder reads from any bytes is well formed, and the bytes are its encoding followed by the rest: no byte
sequence has two meanings and no bit of an opcode byte is dropped. -/
def Obligations.DecodedBytesAreItsEncoding : Prop :=
  ∀ (bytes rest : List Byte) (i : Instr), decode bytes = .ok (i, rest) → i.wf = true ∧ bytes = encode i ++ rest

/-- R103: 103 primary bytes give an instruction, the 152 bytes of R100 give their own unimplemented slot, every byte after
the lead-in gives a decode failure, and the lead-in itself is consumed before a table is looked into. -/
def Obligations.DecodeIsTotalWithTheListedFailures : Prop :=
  ((List.range 256).filter fun n => !(decodeByte (BitVec.ofNat 8 n) false).isDecodeFailure).length = 103 ∧
  ((List.range 256).filter fun n => isIllegalSlot (BitVec.ofNat 8 n)).length = 152 ∧
  (∀ b : Byte, decodeByte b false = .illegal b ↔ isIllegalSlot b = true) ∧
  (∀ b : Byte, b ≠ 0xCB#8 → ((decodeByte b false).isDecodeFailure = true ↔ isIllegalSlot b = true)) ∧
  (∀ b : Byte, (decodeByte b true).isDecodeFailure = true) ∧
  (∀ s : State, memRead s s.pc = 0xCB#8 → fetchInstr s = decodeByte (memRead s (add16 s.pc 1#16)) true)

/-- R99: the length is a function of byte 0 alone. -/
def Obligations.LengthFollowsFromByteZero : Prop :=
  ∀ b : Byte, (decodeByte b false).length =
    if isIllegalSlot b = true ∨ b = 0xCB#8 then none
    else if b ∈ [0x06, 0x0E, 0x16, 0x1E, 0x26, 0x2E, 0x36, 0x3E] then some 2
    else if b ∈ [0xC2, 0xC3, 0xC4, 0xCA, 0xCC, 0xCD, 0xD2, 0xD4, 0xDA, 0xDC] then some 3
    else some 1

/-- Words written out from the bit fields of R91, one per family, decode to the instruction they stand for. -/
def Obligations.WrittenOutWordsDecode : Prop :=
  decode [0b10000010] = .ok (.add_A_D, []) ∧ decode [0b01100011] = .ok (.ld_H_E, []) ∧
  decode [0b00101110, 0x5A] = .ok (.ld_L_d8, [0x5A]) ∧ decode [0b01111110] = .ok (.ld_A_atHL, []) ∧
  decode [0b01110001] = .ok (.ld_atHL_C, []) ∧ decode [0b00110110, 0x99] = .ok (.ld_atHL_d8, [0x99]) ∧
  decode [0b11010010, 0x34, 0x12] = .ok (.jp_NC_a16, [0x34, 0x12]) ∧ decode [0b11010101] = .ok (.push_DE, []) ∧
  decode [0b11110001] = .ok (.pop_AF, []) ∧ decode [0b11011100, 0x00, 0x20] = .ok (.call_C_a16, [0x00, 0x20]) ∧
  decode [0b11001000] = .ok (.ret_Z, []) ∧ decode [0x76] = .ok (.halt, []) ∧
  decode [0xCB, 0x37] = .ok (.illegalPrefixed 0x37, [])

/-! ### The step (45_misc.md, 60_exceptions.md) -/

/-- When the bytes at pc decode to an instruction, a step of a running core is exactly the execution of it. -/
def Obligations.StepRunsTheDecodedInstruction : Prop :=
  ∀ (s : State) (i : Instr) (rest : List Byte), s.halted = false →
    decode [memRead s s.pc, memRead s (add16 s.pc 1#16), memRead s (add16 s.pc 2#16)] = .ok (i, rest) →
    step s = exec i s

/-- R173, the whole step: halted, prefixed, decode failure, execution. -/
def Obligations.StepIsTheWholeTransition : Prop :=
  ∀ s : State,
    (s.halted = true → step s = .next s) ∧
    (s.halted = false → memRead s s.pc = 0xCB#8 →
      step s = .fault (.illegalOpcode s.pc (memRead s (add16 s.pc 1#16)) true)) ∧
    (s.halted = false → isIllegalSlot (memRead s s.pc) = true →
      step s = .fault (.illegalOpcode s.pc (memRead s s.pc) false)) ∧
    (s.halted = false → memRead s s.pc ≠ 0xCB#8 → isIllegalSlot (memRead s s.pc) = false →
      step s = exec (decodeByte (memRead s s.pc) false) s ∧ ∃ t, step s = .next t)

/-- R172: any number of steps of a halted core leave the state as it is, whatever byte lies at pc. -/
def Obligations.HaltedRunIsTheIdentity : Prop :=
  ∀ (n : Nat) (s : State), s.halted = true → Host.Core.run core n s = .next s

/-- R100, R101, R174: the unimplemented slots and the lead-in stop with IllegalOpcode, always, with the record of R183; so
does every step of a running core that fetches such a byte, and it changes nothing. -/
def Obligations.IllegalSlotsReportIllegalOpcode : Prop :=
  ∀ (b : Byte) (s : State),
    exec (.illegal b) s = .fault (.illegalOpcode s.pc b false) ∧
    exec (.illegalPrefixed b) s = .fault (.illegalOpcode s.pc b true) ∧
    exec .prefixLeadIn s = .fault (.illegalOpcode s.pc (memRead s (add16 s.pc 1#16)) true) ∧
    (s.halted = false → memRead s s.pc = b → isIllegalSlot b = true →
      step s = .fault (.illegalOpcode s.pc b false) ∧
      transact .step s = (.condition (.illegalOpcode s.pc b false), s)) ∧
    (s.halted = false → memRead s s.pc = 0xCB#8 → memRead s (add16 s.pc 1#16) = b →
      step s = .fault (.illegalOpcode s.pc b true) ∧
      transact .step s = (.condition (.illegalOpcode s.pc b true), s))

/-- R181, R189: a condition leaves the whole state as it was, and a further step reports the same condition. -/
def Obligations.ConditionChangesNothingAndRepeats : Prop :=
  ∀ (s t : State) (f : Fault), transact .step s = (.condition f, t) →
    t = s ∧ transact .step t = (.condition f, s)

/-- R184, R185, R186: a step is never refused, and the only condition it can report is IllegalOpcode at pc, on a running
core, for a byte after the lead-in or a byte of R100's list. -/
def Obligations.OnlyIllegalOpcodeIsEverReported : Prop :=
  ∀ s : State,
    (∀ r, step s ≠ .refused r) ∧
    (∀ f, step s = .fault f → s.halted = false ∧
      ((memRead s s.pc = 0xCB#8 ∧ f = .illegalOpcode s.pc (memRead s (add16 s.pc 1#16)) true) ∨
       (isIllegalSlot (memRead s s.pc) = true ∧ f = .illegalOpcode s.pc (memRead s s.pc) false)))

/-! ### ADD (40_alu_add.md) -/

/-- R123: the encoding, the result, all four flags, pc, and nothing else, for every operand register (A itself among
them). -/
def Obligations.AddWritesSumAndFlags : Prop :=
  decodeByte 0x86 false = .illegal 0x86 ∧ ∀ (r : Reg8) (s : State),
    decodeByte (0b10000#5 ++ r.code) false = (Form.addReg r).instr ∧
    exec (Form.addReg r).instr s = .next { s with
      a := BitVec.ofNat 8 ((s.a.toNat + (s.reg r).toNat) % 256),
      flags := {
        z := decide ((s.a.toNat + (s.reg r).toNat) % 256 = 0), n := false,
        h := decide (s.a.toNat % 16 + (s.reg r).toNat % 16 > 0xF),
        c := decide (s.a.toNat + (s.reg r).toNat > 0xFF) },
      pc := add16 s.pc 1#16 }

/-- The corner cases of R124, items 1 to 7, which the spec derives from R121 to R123, on what ADD leaves in `t`:
doubling, a zero operand, 0 + 0, zero and carry together, flags in not mattering, half-carry and carry independent, and
zero without carry. -/
def Obligations.AddCornerCases : Prop :=
  ∀ (r : Reg8) (s : State), ∃ t, exec (Form.addReg r).instr s = .next t ∧
    (r = .A → t.a.toNat = 2 * s.a.toNat % 256 ∧ t.flags.h = s.a.getLsbD 3 ∧ t.flags.c = s.a.getLsbD 7 ∧
      (t.flags.z = true ↔ s.a = 0x00#8 ∨ s.a = 0x80#8)) ∧
    (s.reg r = 0x00#8 → t.a = s.a ∧ t.flags.h = false ∧ t.flags.c = false ∧ (t.flags.z = true ↔ s.a = 0x00#8)) ∧
    (s.a = 0x00#8 → s.reg r = 0x00#8 → packF t.flags = 0x80#8) ∧
    (t.flags.z = true ∧ t.flags.c = true ↔ s.a.toNat + (s.reg r).toNat = 0x100) ∧
    (t.flags.z = true → t.flags.c = true →
      (t.flags.h = false ↔ s.a.toNat % 16 = 0 ∧ (s.reg r).toNat % 16 = 0)) ∧
    (∀ f : Flags, exec (Form.addReg r).instr (s.setFlags f) = .next t) ∧
    (s.a = 0x08#8 → s.reg r = 0x08#8 → t.a = 0x10#8 ∧ t.flags.h = true ∧ t.flags.c = false) ∧
    (s.a = 0x80#8 → s.reg r = 0x80#8 → t.a = 0x00#8 ∧ t.flags.h = false ∧ t.flags.c = true) ∧
    (t.a = 0x00#8 → t.flags.c = false → s.a = 0x00#8 ∧ s.reg r = 0x00#8)

/-! ### JP (41_jump.md) -/

/-- R131: the encoding; pc becomes the little-endian immediate; nothing else changes. -/
def Obligations.JumpGoesToTheImmediate : Prop :=
  decodeByte 0xC3 false = .jp_a16 ∧ ∀ s : State, exec .jp_a16 s = .next { s with
    pc := BitVec.ofNat 16 ((memRead s (add16 s.pc 2#16)).toNat * 256 + (memRead s (add16 s.pc 1#16)).toNat) }

/-- R132: the encoding; each of the four conditions, taken and not taken; nothing but pc changes. -/
def Obligations.ConditionalJumpFollowsItsFlag : Prop :=
  (∀ cc : Cond, decodeByte (0b110#3 ++ cc.code ++ 0b010#3) false = (Form.jpCond cc).instr) ∧ ∀ s : State,
    exec .jp_NZ_a16 s = .next { s with pc := if s.flags.z = false then immediateIn s s else add16 s.pc 3#16 } ∧
    exec .jp_Z_a16 s = .next { s with pc := if s.flags.z = true then immediateIn s s else add16 s.pc 3#16 } ∧
    exec .jp_NC_a16 s = .next { s with pc := if s.flags.c = false then immediateIn s s else add16 s.pc 3#16 } ∧
    exec .jp_C_a16 s = .next { s with pc := if s.flags.c = true then immediateIn s s else add16 s.pc 3#16 }

/-! ### LD (42_load.md) -/

/-- R141, for all 49 pairs of registers: the encoding; the target takes the source's value, pc advances by 1, nothing
else changes. -/
def Obligations.LoadRegisterCopies : Prop :=
  ∀ (d r : Reg8) (s : State),
    decodeByte (BitVec.ofNat 8 (0x40 + 8 * d.code.toNat + r.code.toNat)) false = (Form.ldRegReg d r).instr ∧
    ∃ t, exec (Form.ldRegReg d r).instr s = .next t ∧
    t.reg d = s.reg r ∧ OtherRegsSame [d] s t ∧ t.flags = s.flags ∧ t.sp = s.sp ∧ t.pc = add16 s.pc 1#16 ∧ MemorySame s t

/-- R142: the encoding; the target takes the byte after the opcode, pc advances by 2, nothing else changes. -/
def Obligations.LoadImmediateCopies : Prop :=
  ∀ (d : Reg8) (s : State),
    decodeByte (0b00#2 ++ d.code ++ 0b110#3) false = (Form.ldRegImm d).instr ∧
    ∃ t, exec (Form.ldRegImm d).instr s = .next t ∧
    t.reg d = memRead s (add16 s.pc 1#16) ∧ OtherRegsSame [d] s t ∧ t.flags = s.flags ∧ t.sp = s.sp ∧
    t.pc = add16 s.pc 2#16 ∧ MemorySame s t

/-- R143: the encoding; the target takes the byte at the address the old H and L form, also when the target is H or L. -/
def Obligations.LoadFromHlReads : Prop :=
  ∀ (d : Reg8) (s : State),
    decodeByte (0b01#2 ++ d.code ++ 0b110#3) false = (Form.ldRegHl d).instr ∧
    ∃ t, exec (Form.ldRegHl d).instr s = .next t ∧
    t.reg d = memRead s (BitVec.ofNat 16 (s.h.toNat * 256 + s.l.toNat)) ∧ OtherRegsSame [d] s t ∧
    t.flags = s.flags ∧ t.sp = s.sp ∧ t.pc = add16 s.pc 1#16 ∧ MemorySame s t

/-- R144: the encoding; the byte at HL becomes the register's, every other byte reads as before, no register or flag
changes, and the storages are those of the bus write. -/
def Obligations.StoreRegisterAtHl : Prop :=
  ∀ (r : Reg8) (s : State),
    decodeByte (0b01110#5 ++ r.code) false = (Form.ldHlReg r).instr ∧
    ∃ t, exec (Form.ldHlReg r).instr s = .next t ∧
    (∀ x, x = hlAddr s → x = BitVec.ofNat 16 (s.h.toNat * 256 + s.l.toNat) ∧ memRead t x = s.reg r ∧
      ∀ y, y ≠ x → memRead t y = memRead s y) ∧
    OtherRegsSame [] s t ∧ t.flags = s.flags ∧ t.sp = s.sp ∧ t.pc = add16 s.pc 1#16 ∧
    t.plain = (memWrite s (hlAddr s) (s.reg r)).plain ∧ t.vram = (memWrite s (hlAddr s) (s.reg r)).vram ∧
    t.tiles = (memWrite s (hlAddr s) (s.reg r)).tiles

/-- R145: the encoding; as R144 with the byte after the opcode, read before the write; pc advances by 2. -/
def Obligations.StoreImmediateAtHl : Prop :=
  decodeByte 0x36 false = .ld_atHL_d8 ∧ ∀ s : State, ∃ t, exec .ld_atHL_d8 s = .next t ∧
    (∀ x, x = hlAddr s → x = BitVec.ofNat 16 (s.h.toNat * 256 + s.l.toNat) ∧
      memRead t x = memRead s (add16 s.pc 1#16) ∧ ∀ y, y ≠ x → memRead t y = memRead s y) ∧
    OtherRegsSame [] s t ∧ t.flags = s.flags ∧ t.sp = s.sp ∧ t.pc = add16 s.pc 2#16 ∧
    t.plain = (memWrite s (hlAddr s) (memRead s (add16 s.pc 1#16))).plain ∧
    t.vram = (memWrite s (hlAddr s) (memRead s (add16 s.pc 1#16))).vram ∧
    t.tiles = (memWrite s (hlAddr s) (memRead s (add16 s.pc 1#16))).tiles

/-! ### PUSH and POP (43_stack.md) -/

/-- R152: the encoding; the high register at sp-1, the low register at sp-2, sp down by 2, every other byte as before,
no register or flag changed, the storages those of the two bus writes in that order. -/
def Obligations.PushPairStoresBothHalves : Prop :=
  ∀ (rr : Pair) (s : State),
    decodeByte (0b11#2 ++ rr.code ++ 0b0101#4) false = (Form.pushPair rr).instr ∧
    ∃ t, exec (Form.pushPair rr).instr s = .next t ∧
    memRead t (sub16 s.sp 1#16) = s.reg (pairHi rr) ∧ memRead t (sub16 s.sp 2#16) = s.reg (pairLo rr) ∧
    (∀ y, y ≠ sub16 s.sp 1#16 → y ≠ sub16 s.sp 2#16 → memRead t y = memRead s y) ∧
    t.sp = sub16 s.sp 2#16 ∧ OtherRegsSame [] s t ∧ t.flags = s.flags ∧ t.pc = add16 s.pc 1#16 ∧
    t.plain = (push16 s (s.pair rr)).plain ∧ t.vram = (push16 s (s.pair rr)).vram ∧
    t.tiles = (push16 s (s.pair rr)).tiles

/-- R153: the encoding; A at sp-1 and the packed flag byte, low nibble zero, at sp-2. -/
def Obligations.PushAfStoresAAndFlags : Prop :=
  decodeByte 0xF5 false = .push_AF ∧ ∀ s : State, ∃ t, exec .push_AF s = .next t ∧
    memRead t (sub16 s.sp 1#16) = s.a ∧
    (memRead t (sub16 s.sp 2#16)).toNat =
      s.flags.z.toNat * 0x80 + s.flags.n.toNat * 0x40 + s.flags.h.toNat * 0x20 + s.flags.c.toNat * 0x10 ∧
    (∀ y, y ≠ sub16 s.sp 1#16 → y ≠ sub16 s.sp 2#16 → memRead t y = memRead s y) ∧
    t.sp = sub16 s.sp 2#16 ∧ OtherRegsSame [] s t ∧ t.flags = s.flags ∧ t.pc = add16 s.pc 1#16 ∧
    t.plain = (push16 s s.af).plain ∧ t.vram = (push16 s s.af).vram ∧ t.tiles = (push16 s s.af).tiles

/-- R154: the encoding; the low register from the byte at sp, the high register from sp+1, sp up by 2; no flag and no
byte of memory changes. -/
def Obligations.PopPairLoadsBothHalves : Prop :=
  ∀ (rr : Pair) (s : State),
    decodeByte (0b11#2 ++ rr.code ++ 0b0001#4) false = (Form.popPair rr).instr ∧
    ∃ t, exec (Form.popPair rr).instr s = .next t ∧
    t.reg (pairLo rr) = memRead s s.sp ∧ t.reg (pairHi rr) = memRead s (add16 s.sp 1#16) ∧
    OtherRegsSame [pairHi rr, pairLo rr] s t ∧ t.flags = s.flags ∧ t.sp = add16 s.sp 2#16 ∧
    t.pc = add16 s.pc 1#16 ∧ MemorySame s t

/-- R155: the encoding; A from sp+1, the four flags from bits 7 to 4 of the byte at sp, whose low nibble is dropped, so
that a PUSH AF after it stores that byte with its low nibble cleared; no other instruction makes the subtract flag true.
-/
def Obligations.PopAfLoadsAAndFlags : Prop :=
  decodeByte 0xF1 false = .pop_AF ∧
  (∀ s : State, ∃ t u, exec .pop_AF s = .next t ∧
    t.a = memRead s (add16 s.sp 1#16) ∧
    t.flags = { z := (memRead s s.sp).getLsbD 7, n := (memRead s s.sp).getLsbD 6,
                h := (memRead s s.sp).getLsbD 5, c := (memRead s s.sp).getLsbD 4 } ∧
    packF t.flags = memRead s s.sp &&& 0xF0#8 ∧
    OtherRegsSame [.A] s t ∧ t.sp = add16 s.sp 2#16 ∧ t.pc = add16 s.pc 1#16 ∧ MemorySame s t ∧
    exec .push_AF t = .next u ∧ memRead u s.sp = memRead s s.sp &&& 0xF0#8) ∧
  (∀ (i : Instr) (s t : State), exec i s = .next t → s.flags.n = false → t.flags.n = true → i = .pop_AF)

/-- R150: Push16 is the two bus writes, high byte first, and the move of sp, with what every address then reads. -/
def Obligations.PushWritesHighThenLow : Prop :=
  ∀ (s : State) (v : Word),
    push16 s v = { memWrite (memWrite s (sub16 s.sp 1#16) (BitVec.ofNat 8 (v.toNat / 256))) (sub16 s.sp 2#16)
      (BitVec.ofNat 8 (v.toNat % 256)) with sp := sub16 s.sp 2#16 } ∧
    memRead (push16 s v) (sub16 s.sp 1#16) = BitVec.ofNat 8 (v.toNat / 256) ∧
    memRead (push16 s v) (sub16 s.sp 2#16) = BitVec.ofNat 8 (v.toNat % 256) ∧
    ∀ y, y ≠ sub16 s.sp 1#16 → y ≠ sub16 s.sp 2#16 → memRead (push16 s v) y = memRead s y

/-- R151: Pop16 is the two reads, low byte first, and the move of sp; a pop right after a push returns the value and
restores sp, for every value and every sp, also across the wrap, and clears nothing. -/
def Obligations.PopAfterPushRestores : Prop :=
  ∀ (s : State) (v : Word),
    popValue s = BitVec.ofNat 16 ((memRead s (add16 s.sp 1#16)).toNat * 256 + (memRead s s.sp).toNat) ∧
    popState s = { s with sp := add16 s.sp 2#16 } ∧
    popValue (push16 s v) = v ∧ (popState (push16 s v)).sp = s.sp ∧
    ∀ y, memRead (popState (push16 s v)) y = memRead (push16 s v) y

/-- R24, R155: PUSH AF then POP AF changes neither A nor the flags; PUSH AF after POP AF stores the popped byte with its
low nibble cleared. -/
def Obligations.AfRoundTripsClearTheLowNibble : Prop :=
  ∀ s : State,
    (∃ t u, exec .push_AF s = .next t ∧ exec .pop_AF t = .next u ∧
      u.a = s.a ∧ u.flags = s.flags ∧ u.sp = s.sp) ∧
    (∃ t u, exec .pop_AF s = .next t ∧ exec .push_AF t = .next u ∧
      memRead u s.sp = memRead s s.sp &&& 0xF0#8 ∧ memRead u (add16 s.sp 1#16) = memRead s (add16 s.sp 1#16) ∧
      u.sp = s.sp)

/-! ### CALL and RET (44_call_ret.md) -/

/-- R161: the encoding and the whole effect of CALL a16; the push comes before the immediate is read (D12; [4]). -/
def Obligations.CallPushesAndJumps : Prop :=
  decodeByte 0xCD false = .call_a16 ∧ ∀ s : State, ∃ t, exec .call_a16 s = .next t ∧ CallEffect s t

/-- R162: the encoding; each of the four conditions; not taken, only pc changes. -/
def Obligations.ConditionalCallFollowsItsFlag : Prop :=
  (∀ cc : Cond, decodeByte (0b110#3 ++ cc.code ++ 0b100#3) false = (Form.callCond cc).instr) ∧ ∀ s : State,
    (∃ t, exec .call_NZ_a16 s = .next t ∧
      ((s.flags.z = false ∧ CallEffect s t) ∨ (s.flags.z = true ∧ t = { s with pc := add16 s.pc 3#16 }))) ∧
    (∃ t, exec .call_Z_a16 s = .next t ∧
      ((s.flags.z = true ∧ CallEffect s t) ∨ (s.flags.z = false ∧ t = { s with pc := add16 s.pc 3#16 }))) ∧
    (∃ t, exec .call_NC_a16 s = .next t ∧
      ((s.flags.c = false ∧ CallEffect s t) ∨ (s.flags.c = true ∧ t = { s with pc := add16 s.pc 3#16 }))) ∧
    (∃ t, exec .call_C_a16 s = .next t ∧
      ((s.flags.c = true ∧ CallEffect s t) ∨ (s.flags.c = false ∧ t = { s with pc := add16 s.pc 3#16 })))

/-- R163, which the spec derives from R161 and R150 (D12; [4]): where the pushed bytes land on the immediate the target
is formed from the overwritten bytes, in the three positions of sp; everywhere else it is the immediate as it was, so
the two readings of D12 agree there. -/
def Obligations.CallOverItsOwnImmediate : Prop :=
  ∀ s : State, ∃ t, exec .call_a16 s = .next t ∧
    (s.sp = add16 s.pc 3#16 → t.pc = add16 s.pc 3#16) ∧
    (s.sp = add16 s.pc 2#16 → t.pc =
      BitVec.ofNat 16 ((memRead s (add16 s.pc 2#16)).toNat * 256 + (hiByte (add16 s.pc 3#16)).toNat)) ∧
    (s.sp = add16 s.pc 4#16 → t.pc =
      BitVec.ofNat 16 ((loByte (add16 s.pc 3#16)).toNat * 256 + (memRead s (add16 s.pc 1#16)).toNat)) ∧
    (s.sp ≠ add16 s.pc 2#16 → s.sp ≠ add16 s.pc 3#16 → s.sp ≠ add16 s.pc 4#16 →
      t.pc = immediateIn s s ∧ callTaken false s = callTaken true s)

/-- R164: the encoding; pc is popped, sp goes up by 2, nothing else changes. -/
def Obligations.ReturnPopsPc : Prop :=
  decodeByte 0xC9 false = .ret ∧ ∀ s : State, exec .ret s = .next { s with
    pc := BitVec.ofNat 16 ((memRead s (add16 s.sp 1#16)).toNat * 256 + (memRead s s.sp).toNat),
    sp := add16 s.sp 2#16 }

/-- R165: the encoding; each of the four conditions; not taken, pc advances by 1 and sp stays. -/
def Obligations.ConditionalReturnFollowsItsFlag : Prop :=
  (∀ cc : Cond, decodeByte (0b110#3 ++ cc.code ++ 0b000#3) false = (Form.retCond cc).instr) ∧ ∀ s : State,
    exec .ret_NZ s = .next (if s.flags.z = false then { s with pc := stackTop s, sp := add16 s.sp 2#16 }
      else { s with pc := add16 s.pc 1#16 }) ∧
    exec .ret_Z s = .next (if s.flags.z = true then { s with pc := stackTop s, sp := add16 s.sp 2#16 }
      else { s with pc := add16 s.pc 1#16 }) ∧
    exec .ret_NC s = .next (if s.flags.c = false then { s with pc := stackTop s, sp := add16 s.sp 2#16 }
      else { s with pc := add16 s.pc 1#16 }) ∧
    exec .ret_C s = .next (if s.flags.c = true then { s with pc := stackTop s, sp := add16 s.sp 2#16 }
      else { s with pc := add16 s.pc 1#16 })

/-- R160: CALL and then RET come back to the instruction after the CALL with sp as it was. -/
def Obligations.ReturnAfterCallComesBack : Prop :=
  ∀ s : State, ∃ t u, exec .call_a16 s = .next t ∧ exec .ret t = .next u ∧
    u.pc = add16 s.pc 3#16 ∧ u.sp = s.sp ∧ OtherRegsSame [] s u ∧ u.flags = s.flags

/-! ### NOP and HALT (45_misc.md) -/

/-- R170: the encoding; pc advances by 1, nothing else changes. -/
def Obligations.NopOnlyAdvances : Prop :=
  decodeByte 0x00 false = .nop ∧ ∀ s : State, exec .nop s = .next { s with pc := add16 s.pc 1#16 }

/-- R171: the encoding; only the run state changes; pc stays on the HALT byte. -/
def Obligations.HaltOnlyHalts : Prop :=
  decodeByte 0x76 false = .halt ∧ ∀ s : State, exec .halt s = .next { s with halted := true }

/-- R170's corner case: over memory that reads zero everywhere a running core executes NOPs for ever, pc running round the
whole space. -/
def Obligations.EmptyMemoryRunsNops : Prop :=
  ∀ (n : Nat) (s : State), s.halted = false → (∀ y, memRead s y = 0x00#8) →
    Host.Core.run core n s = .next { s with pc := add16 s.pc (BitVec.ofNat 16 n) }

/-- R221: after HALT, a wake and a further step the core is halted on the same HALT again. -/
def Obligations.WokenCoreHaltsAgain : Prop :=
  ∀ s : State, s.halted = false → memRead s s.pc = 0x76#8 →
    step s = .next { s with halted := true } ∧ wake { s with halted := true } = s ∧
    session [.step, .wake, .step] s = { s with halted := true }

/-! ### Registers and flags (10_state.md) -/

/-- R22 (and the laws of R24): a pair reads as high * 256 + low, writing then reading it is lossless, and writing it
changes exactly its two registers. -/
def Obligations.PairsAreViews : Prop :=
  ∀ (rr : Pair) (s : State) (v : Word),
    (s.pair rr).toNat = (s.reg (pairHi rr)).toNat * 256 + (s.reg (pairLo rr)).toNat ∧
    (s.setPair rr v).pair rr = v ∧
    (s.setPair rr v).reg (pairHi rr) = hiByte v ∧ (s.setPair rr v).reg (pairLo rr) = loByte v ∧
    OtherRegsSame [pairHi rr, pairLo rr] s (s.setPair rr v) ∧ (s.setPair rr v).flags = s.flags ∧
    (s.setPair rr v).pc = s.pc ∧ (s.setPair rr v).sp = s.sp ∧ MemorySame s (s.setPair rr v) ∧
    s.setPair rr (s.pair rr) = s

/-- R26, with the laws the spec derives there: the bits of F, unpacking, the two inverse on the
flags, the packed low nibble zero, and packing what was unpacked keeping the high nibble only. -/
def Obligations.FlagByteRoundTrips : Prop :=
  (∀ f : Flags, unpackF (packF f) = f ∧ packF f &&& 0x0F#8 = 0x00#8 ∧
    (packF f).toNat = f.z.toNat * 0x80 + f.n.toNat * 0x40 + f.h.toNat * 0x20 + f.c.toNat * 0x10) ∧
  (∀ b : Byte, unpackF b = { z := b.getLsbD 7, n := b.getLsbD 6, h := b.getLsbD 5, c := b.getLsbD 4 } ∧
    packF (unpackF b) = b &&& 0xF0#8)

/-- R27: a step changes the flags only by ADD or POP AF, and makes the subtract flag true only by POP AF. -/
def Obligations.FlagsChangeOnlyByAddAndPopAf : Prop :=
  ∀ s t : State, step s = .next t →
    (t.flags ≠ s.flags → fetchInstr s = .pop_AF ∨ ∃ r, fetchInstr s = (Form.addReg r).instr) ∧
    (s.flags.n = false → t.flags.n = true → fetchInstr s = .pop_AF)

/-- R21: an instruction changes no general register but those its form writes. -/
def Obligations.OnlyNamedRegistersChange : Prop :=
  ∀ (i : Instr) (s t : State), exec i s = .next t → ∀ q, q ∉ formWrites i.form → t.reg q = s.reg q

/-- R29: the next pc of every instruction, and pc as it was for a step of a halted core. -/
def Obligations.NextPcTable : Prop :=
  (∀ (i : Instr) (s t : State), exec i s = .next t → t.pc = formPc i.form s t) ∧
  (∀ s t : State, s.halted = true → step s = .next t → t.pc = s.pc) ∧
  (∀ (s t : State) (f : Fault), transact .step s = (.condition f, t) → t.pc = s.pc)

/-- R30: the next sp of every instruction, and so sp moves only in steps of 2 and keeps its parity. -/
def Obligations.StackPointerMovesByTwo : Prop :=
  (∀ (i : Instr) (s t : State), exec i s = .next t → t.sp = formSp i.form s) ∧
  (∀ s t : State, step s = .next t → (t.sp = s.sp ∨ t.sp = sub16 s.sp 2#16 ∨ t.sp = add16 s.sp 2#16) ∧
    t.sp.toNat % 2 = s.sp.toNat % 2)

/-- R31: among all transactions only a step of HALT halts a running core, and only a wake (or power-on reset) makes a
halted core run. -/
def Obligations.OnlyHaltHaltsAndOnlyWakeWakes : Prop :=
  ∀ (i : Input) (s : State),
    (s.halted = false → (transact i s).2.halted = true → i = .step ∧ fetchInstr s = .halt) ∧
    (s.halted = true → (transact i s).2.halted = false → i = .wake ∨ i = .powerOnReset)

/-- R36: an instruction changes no byte of memory but those at the addresses its form stores to; a form that stores
nothing leaves memory and the tile cache as they were. -/
def Obligations.OnlyNamedAddressesChange : Prop :=
  ∀ (i : Instr) (s t : State), exec i s = .next t →
    (∀ y, y ∉ formStores i.form s → memRead t y = memRead s y) ∧ (formStores i.form s = [] → MemorySame s t)

/-! ### The bus and the video unit (20_memory.md) -/

/-- R50, R53, R54, R56: the owner of every address, the four boundary addresses, the video offset inside raw video memory,
and a read answered by the owner's storage. -/
def Obligations.OwnerByRange : Prop :=
  (∀ x : Word, owner x = .VIDEO ↔ 0x8000 ≤ x.toNat ∧ x.toNat ≤ 0x9FFF) ∧
  (∀ x : Word, owner x = .VIDEO ∨ owner x = .PLAIN) ∧
  (∀ x : Word, owner x = .VIDEO → videoOffset x = x.toNat - 0x8000 ∧ videoOffset x ≤ 0x1FFF) ∧
  owner 0x7FFF = .PLAIN ∧ owner 0x8000 = .VIDEO ∧ videoOffset 0x8000 = 0x0000 ∧
  owner 0x9FFF = .VIDEO ∧ videoOffset 0x9FFF = 0x1FFF ∧ owner 0xA000 = .PLAIN ∧
  (∀ (s : State) (x : Word), owner x = .VIDEO → memRead s x = vramByte s (x.toNat - 0x8000)) ∧
  (∀ (s : State) (x : Word), owner x = .PLAIN → memRead s x = plainByte s x.toNat)

/-- R57, R58, R59: a write is seen at its own address and nowhere else; a plain write leaves raw video memory and the
tile cache alone; a video write leaves plain storage alone; neither touches a register, a flag, pc, sp or the run state.
-/
def Obligations.WriteChangesOneByte : Prop :=
  ∀ (s : State) (x : Word) (v : Byte),
    memRead (memWrite s x v) x = v ∧
    (∀ y, y ≠ x → memRead (memWrite s x v) y = memRead s y) ∧
    (owner x = .PLAIN → plainByte (memWrite s x v) x.toNat = v ∧ (memWrite s x v).vram = s.vram ∧
      (memWrite s x v).tiles = s.tiles ∧
      ∀ k, k ≠ x.toNat → plainByte (memWrite s x v) k = plainByte s k) ∧
    (owner x = .VIDEO → vramByte (memWrite s x v) (x.toNat - 0x8000) = v ∧ (memWrite s x v).plain = s.plain ∧
      ∀ k, k ≠ videoOffset x → vramByte (memWrite s x v) k = vramByte s k) ∧
    OtherRegsSame [] s (memWrite s x v) ∧ (memWrite s x v).flags = s.flags ∧
    (memWrite s x v).pc = s.pc ∧ (memWrite s x v).sp = s.sp

/-- R60, R61, R62, R64: after a write to tile data the eight pixels of the addressed row are the shades of the two bytes
of the row as they then stand, and every other pixel is as before; after any other write no pixel changes. -/
def Obligations.WriteRecomputesOneTileRow : Prop :=
  ∀ (s : State) (x : Word) (v : Byte) (t r c : Nat), t < 384 → r < 8 → c < 8 →
    tilePixel (memWrite s x v) t r c =
      if 0x8000 ≤ x.toNat ∧ x.toNat < 0x9800 ∧ t = (x.toNat - 0x8000) >>> 4 ∧ r = ((x.toNat - 0x8000) >>> 1) &&& 7 then
        (match (vramByte (memWrite s x v) (((x.toNat - 0x8000) &&& 0xFFFE) + 1)).getLsbD (7 - c),
               (vramByte (memWrite s x v) ((x.toNat - 0x8000) &&& 0xFFFE)).getLsbD (7 - c) with
         | true, true => 3
         | true, false => 1
         | false, true => 2
         | false, false => 0)
      else tilePixel s t r c

/-- R71: writing the same byte twice leaves the same state as writing it once. -/
def Obligations.WriteIsIdempotent : Prop :=
  ∀ (s : State) (x : Word) (v : Byte), StorageWf s → memWrite (memWrite s x v) x v = memWrite s x v

/-- R74, R218: a byte stored at pc, by the host or by the instruction before, is the opcode of the next step; here by a
bus write, and by LD (HL),r with HL at the next instruction. -/
def Obligations.StoresAreFetchedAtOnce : Prop :=
  (∀ (s : State) (v : Byte), s.halted = false → v ≠ 0xCB#8 →
    step (memWrite s s.pc v) = exec (decodeByte v false) (memWrite s s.pc v)) ∧
  (∀ (s : State) (r : Reg8), s.halted = false → hlAddr s = add16 s.pc 1#16 → s.reg r ≠ 0xCB#8 →
    ∃ t, exec (Form.ldHlReg r).instr s = .next t ∧ step t = exec (decodeByte (s.reg r) false) t)

/-! ### Reset and the ports (70_reset_and_hazards.md, 60_exceptions.md) -/

/-- R40, R210, R211: every register, flag, pc and sp zero, running, every byte of memory 0x00, every pixel shade "0";
and a power-on reset from any state gives this state. -/
def Obligations.ResetIsAllZero : Prop :=
  (∀ r, State.reset.reg r = 0x00#8) ∧ State.reset.flags = { z := false, n := false, h := false, c := false } ∧
  State.reset.pc = 0x0000 ∧ State.reset.sp = 0x0000 ∧ State.reset.halted = false ∧
  (∀ k, plainByte State.reset k = 0x00#8) ∧ (∀ k, vramByte State.reset k = 0x00#8) ∧
  (∀ t r c, tilePixel State.reset t r c = 0) ∧ ∀ s, (transact .powerOnReset s).2 = State.reset

/-- R191: the wake clears the run state and changes nothing else; on a running core it has no effect. -/
def Obligations.WakeOnlyClearsHalted : Prop :=
  ∀ s : State, (transact .wake s).2 = { s with halted := false } ∧ (s.halted = false → (transact .wake s).2 = s)

/-- R65: TileRead answers the pixel for indices in range, refuses any other, and changes nothing. -/
def Obligations.TileReadAnswersInRange : Prop :=
  ∀ (t r c : Nat) (s : State),
    (t ≤ 383 ∧ r ≤ 7 ∧ c ≤ 7 → transact (.tileRead t r c) s = (.pixel (tilePixel s t r c), s)) ∧
    (¬(t ≤ 383 ∧ r ≤ 7 ∧ c ≤ 7) → transact (.tileRead t r c) s = (.refused .tileIndexOutOfRange, s))

/-- R76: a load that fits puts its bytes at ascending addresses and changes no other byte, register or flag; one that
would run past 0xFFFF is refused whole; the empty load changes nothing. -/
def Obligations.BulkLoadWritesInOrder : Prop :=
  ∀ (start : Word) (bytes : List Byte) (s : State),
    (start.toNat + bytes.length ≤ 0x10000 → ∃ t, transact (.bulkLoad start bytes) s = (.ok, t) ∧
      (∀ (k : Nat) (hk : k < bytes.length), memRead t (BitVec.ofNat 16 (start.toNat + k)) = bytes[k]) ∧
      (∀ y : Word, y.toNat < start.toNat ∨ start.toNat + bytes.length ≤ y.toNat → memRead t y = memRead s y) ∧
      OtherRegsSame [] s t ∧ t.flags = s.flags ∧ t.pc = s.pc ∧ t.sp = s.sp ∧
      (TilesCoherent s → TilesCoherent t)) ∧
    (0x10000 < start.toNat + bytes.length → transact (.bulkLoad start bytes) s = (.refused .bulkLoadPastEnd, s)) ∧
    transact (.bulkLoad start []) s = (.ok, s)

/-! ### Invariants (10_state.md R38, R39, R41) -/

/-- The invariant holds at reset. -/
def Obligations.InvariantHoldsAtReset : Prop := Inv State.reset

/-- Every step keeps the invariant, from every state that has it. -/
def Obligations.StepKeepsInvariant : Prop := ∀ s t : State, Inv s → step s = .next t → Inv t

/-- R38: the tile cache agrees with raw video memory at reset and after every step from a state where it does. -/
def Obligations.TileCacheStaysCoherent : Prop :=
  TilesCoherent State.reset ∧ ∀ s t : State, TilesCoherent s → step s = .next t → TilesCoherent t

/-- R41: the invariant holds after every session, of steps, loads, host writes, wakes and resets in any order, from any
state that has it. -/
def Obligations.SessionsKeepInvariant : Prop :=
  ∀ (inputs : List Input) (s : State), Inv s → Inv (session inputs s)

/-- R39: no session changes the shadow slots of plain storage, which keep their reset value from reset on. -/
def Obligations.ShadowSlotsKeepResetValue : Prop :=
  ∀ (inputs : List Input) (k : Nat), 0x8000 ≤ k → k ≤ 0x9FFF →
    plainByte (session inputs State.reset) k = 0x00#8
end

