-- ==== Sys2Proof/Laws/State.lean ====
section
/-! SUPPORT. One lemma per field per update of the state, and what the register setters do to the memory reads. -/

namespace Sys2Proof.Machine

variable (s : State)

/-! ### `setPc` -/

@[simp] theorem State.setPc_b (v : Word) : (s.setPc v).b = s.b := (rfl)
@[simp] theorem State.setPc_c (v : Word) : (s.setPc v).c = s.c := (rfl)
@[simp] theorem State.setPc_d (v : Word) : (s.setPc v).d = s.d := (rfl)
@[simp] theorem State.setPc_e (v : Word) : (s.setPc v).e = s.e := (rfl)
@[simp] theorem State.setPc_h (v : Word) : (s.setPc v).h = s.h := (rfl)
@[simp] theorem State.setPc_l (v : Word) : (s.setPc v).l = s.l := (rfl)
@[simp] theorem State.setPc_a (v : Word) : (s.setPc v).a = s.a := (rfl)
@[simp] theorem State.setPc_flags (v : Word) : (s.setPc v).flags = s.flags := (rfl)
@[simp] theorem State.setPc_pc (v : Word) : (s.setPc v).pc = v := (rfl)
@[simp] theorem State.setPc_sp (v : Word) : (s.setPc v).sp = s.sp := (rfl)
@[simp] theorem State.setPc_halted (v : Word) : (s.setPc v).halted = s.halted := (rfl)
@[simp] theorem State.setPc_plain (v : Word) : (s.setPc v).plain = s.plain := (rfl)
@[simp] theorem State.setPc_vram (v : Word) : (s.setPc v).vram = s.vram := (rfl)
@[simp] theorem State.setPc_tiles (v : Word) : (s.setPc v).tiles = s.tiles := (rfl)
@[simp] theorem State.reg_setPc (v : Word) (r : Reg8) : (s.setPc v).reg r = s.reg r := by cases r <;> rfl
@[simp] theorem plainByte_setPc (v : Word) (i : Nat) : plainByte (s.setPc v) i = plainByte s i := (rfl)
@[simp] theorem vramByte_setPc (v : Word) (i : Nat) : vramByte (s.setPc v) i = vramByte s i := (rfl)
@[simp] theorem tilePixel_setPc (v : Word) (t r c : Nat) : tilePixel (s.setPc v) t r c = tilePixel s t r c := (rfl)
@[simp] theorem memRead_setPc (v : Word) (x : Word) : memRead (s.setPc v) x = memRead s x := (rfl)

/-! ### `setSp` -/

@[simp] theorem State.setSp_b (v : Word) : (s.setSp v).b = s.b := (rfl)
@[simp] theorem State.setSp_c (v : Word) : (s.setSp v).c = s.c := (rfl)
@[simp] theorem State.setSp_d (v : Word) : (s.setSp v).d = s.d := (rfl)
@[simp] theorem State.setSp_e (v : Word) : (s.setSp v).e = s.e := (rfl)
@[simp] theorem State.setSp_h (v : Word) : (s.setSp v).h = s.h := (rfl)
@[simp] theorem State.setSp_l (v : Word) : (s.setSp v).l = s.l := (rfl)
@[simp] theorem State.setSp_a (v : Word) : (s.setSp v).a = s.a := (rfl)
@[simp] theorem State.setSp_flags (v : Word) : (s.setSp v).flags = s.flags := (rfl)
@[simp] theorem State.setSp_pc (v : Word) : (s.setSp v).pc = s.pc := (rfl)
@[simp] theorem State.setSp_sp (v : Word) : (s.setSp v).sp = v := (rfl)
@[simp] theorem State.setSp_halted (v : Word) : (s.setSp v).halted = s.halted := (rfl)
@[simp] theorem State.setSp_plain (v : Word) : (s.setSp v).plain = s.plain := (rfl)
@[simp] theorem State.setSp_vram (v : Word) : (s.setSp v).vram = s.vram := (rfl)
@[simp] theorem State.setSp_tiles (v : Word) : (s.setSp v).tiles = s.tiles := (rfl)
@[simp] theorem State.reg_setSp (v : Word) (r : Reg8) : (s.setSp v).reg r = s.reg r := by cases r <;> rfl
@[simp] theorem plainByte_setSp (v : Word) (i : Nat) : plainByte (s.setSp v) i = plainByte s i := (rfl)
@[simp] theorem vramByte_setSp (v : Word) (i : Nat) : vramByte (s.setSp v) i = vramByte s i := (rfl)
@[simp] theorem tilePixel_setSp (v : Word) (t r c : Nat) : tilePixel (s.setSp v) t r c = tilePixel s t r c := (rfl)
@[simp] theorem memRead_setSp (v : Word) (x : Word) : memRead (s.setSp v) x = memRead s x := (rfl)

/-! ### `setFlags` -/

@[simp] theorem State.setFlags_b (v : Flags) : (s.setFlags v).b = s.b := (rfl)
@[simp] theorem State.setFlags_c (v : Flags) : (s.setFlags v).c = s.c := (rfl)
@[simp] theorem State.setFlags_d (v : Flags) : (s.setFlags v).d = s.d := (rfl)
@[simp] theorem State.setFlags_e (v : Flags) : (s.setFlags v).e = s.e := (rfl)
@[simp] theorem State.setFlags_h (v : Flags) : (s.setFlags v).h = s.h := (rfl)
@[simp] theorem State.setFlags_l (v : Flags) : (s.setFlags v).l = s.l := (rfl)
@[simp] theorem State.setFlags_a (v : Flags) : (s.setFlags v).a = s.a := (rfl)
@[simp] theorem State.setFlags_flags (v : Flags) : (s.setFlags v).flags = v := (rfl)
@[simp] theorem State.setFlags_pc (v : Flags) : (s.setFlags v).pc = s.pc := (rfl)
@[simp] theorem State.setFlags_sp (v : Flags) : (s.setFlags v).sp = s.sp := (rfl)
@[simp] theorem State.setFlags_halted (v : Flags) : (s.setFlags v).halted = s.halted := (rfl)
@[simp] theorem State.setFlags_plain (v : Flags) : (s.setFlags v).plain = s.plain := (rfl)
@[simp] theorem State.setFlags_vram (v : Flags) : (s.setFlags v).vram = s.vram := (rfl)
@[simp] theorem State.setFlags_tiles (v : Flags) : (s.setFlags v).tiles = s.tiles := (rfl)
@[simp] theorem State.reg_setFlags (v : Flags) (r : Reg8) : (s.setFlags v).reg r = s.reg r := by cases r <;> rfl
@[simp] theorem plainByte_setFlags (v : Flags) (i : Nat) : plainByte (s.setFlags v) i = plainByte s i := (rfl)
@[simp] theorem vramByte_setFlags (v : Flags) (i : Nat) : vramByte (s.setFlags v) i = vramByte s i := (rfl)
@[simp] theorem tilePixel_setFlags (v : Flags) (t r c : Nat) : tilePixel (s.setFlags v) t r c = tilePixel s t r c := (rfl)
@[simp] theorem memRead_setFlags (v : Flags) (x : Word) : memRead (s.setFlags v) x = memRead s x := (rfl)

/-! ### `setHalted` -/

@[simp] theorem State.setHalted_b (v : Bool) : (s.setHalted v).b = s.b := (rfl)
@[simp] theorem State.setHalted_c (v : Bool) : (s.setHalted v).c = s.c := (rfl)
@[simp] theorem State.setHalted_d (v : Bool) : (s.setHalted v).d = s.d := (rfl)
@[simp] theorem State.setHalted_e (v : Bool) : (s.setHalted v).e = s.e := (rfl)
@[simp] theorem State.setHalted_h (v : Bool) : (s.setHalted v).h = s.h := (rfl)
@[simp] theorem State.setHalted_l (v : Bool) : (s.setHalted v).l = s.l := (rfl)
@[simp] theorem State.setHalted_a (v : Bool) : (s.setHalted v).a = s.a := (rfl)
@[simp] theorem State.setHalted_flags (v : Bool) : (s.setHalted v).flags = s.flags := (rfl)
@[simp] theorem State.setHalted_pc (v : Bool) : (s.setHalted v).pc = s.pc := (rfl)
@[simp] theorem State.setHalted_sp (v : Bool) : (s.setHalted v).sp = s.sp := (rfl)
@[simp] theorem State.setHalted_halted (v : Bool) : (s.setHalted v).halted = v := (rfl)
@[simp] theorem State.setHalted_plain (v : Bool) : (s.setHalted v).plain = s.plain := (rfl)
@[simp] theorem State.setHalted_vram (v : Bool) : (s.setHalted v).vram = s.vram := (rfl)
@[simp] theorem State.setHalted_tiles (v : Bool) : (s.setHalted v).tiles = s.tiles := (rfl)
@[simp] theorem State.reg_setHalted (v : Bool) (r : Reg8) : (s.setHalted v).reg r = s.reg r := by cases r <;> rfl
@[simp] theorem plainByte_setHalted (v : Bool) (i : Nat) : plainByte (s.setHalted v) i = plainByte s i := (rfl)
@[simp] theorem vramByte_setHalted (v : Bool) (i : Nat) : vramByte (s.setHalted v) i = vramByte s i := (rfl)
@[simp] theorem tilePixel_setHalted (v : Bool) (t r c : Nat) : tilePixel (s.setHalted v) t r c = tilePixel s t r c := (rfl)
@[simp] theorem memRead_setHalted (v : Bool) (x : Word) : memRead (s.setHalted v) x = memRead s x := (rfl)

/-! ### `setReg` -/

@[simp] theorem State.setReg_flags (r : Reg8) (v : Byte) : (s.setReg r v).flags = s.flags := by cases r <;> rfl
@[simp] theorem State.setReg_pc (r : Reg8) (v : Byte) : (s.setReg r v).pc = s.pc := by cases r <;> rfl
@[simp] theorem State.setReg_sp (r : Reg8) (v : Byte) : (s.setReg r v).sp = s.sp := by cases r <;> rfl
@[simp] theorem State.setReg_halted (r : Reg8) (v : Byte) : (s.setReg r v).halted = s.halted := by cases r <;> rfl
@[simp] theorem State.setReg_plain (r : Reg8) (v : Byte) : (s.setReg r v).plain = s.plain := by cases r <;> rfl
@[simp] theorem State.setReg_vram (r : Reg8) (v : Byte) : (s.setReg r v).vram = s.vram := by cases r <;> rfl
@[simp] theorem State.setReg_tiles (r : Reg8) (v : Byte) : (s.setReg r v).tiles = s.tiles := by cases r <;> rfl
@[simp] theorem plainByte_setReg (q : Reg8) (v : Byte) (i : Nat) : plainByte (s.setReg q v) i = plainByte s i := by
  cases q <;> rfl
@[simp] theorem vramByte_setReg (q : Reg8) (v : Byte) (i : Nat) : vramByte (s.setReg q v) i = vramByte s i := by
  cases q <;> rfl
@[simp] theorem tilePixel_setReg (q : Reg8) (v : Byte) (t r c : Nat) : tilePixel (s.setReg q v) t r c = tilePixel s t r c := by
  cases q <;> rfl
@[simp] theorem memRead_setReg (q : Reg8) (v : Byte) (x : Word) : memRead (s.setReg q v) x = memRead s x := by
  cases q <;> rfl

/-- A register write changes that register and no other. -/
theorem State.reg_setReg (q r : Reg8) (v : Byte) : (s.setReg q v).reg r = if r = q then v else s.reg r := by
  cases q <;> cases r <;> rfl

@[simp] theorem State.reg_setReg_same (r : Reg8) (v : Byte) : (s.setReg r v).reg r = v := by cases r <;> rfl

@[simp] theorem State.setReg_reg (r : Reg8) : s.setReg r (s.reg r) = s := by cases r <;> rfl

/-- States with the same registers, flags, pc, sp, run state and storages are the same. -/
theorem State.ext_parts {s t : State} (hr : ∀ r, s.reg r = t.reg r) (hf : s.flags = t.flags) (hpc : s.pc = t.pc)
    (hsp : s.sp = t.sp) (hh : s.halted = t.halted) (hp : s.plain = t.plain) (hv : s.vram = t.vram)
    (ht : s.tiles = t.tiles) : s = t := by
  have hB := hr .B
  have hC := hr .C
  have hD := hr .D
  have hE := hr .E
  have hH := hr .H
  have hL := hr .L
  have hA := hr .A
  cases s; cases t
  simp only [State.reg] at hB hC hD hE hH hL hA
  simp_all

/-! ### Bytes and words -/

/-- `hi:lo` is `hi * 256 + lo`. -/
theorem mkWord_toNat (hi lo : Byte) : (mkWord hi lo).toNat = hi.toNat * 256 + lo.toNat := by
  unfold mkWord
  rw [BitVec.toNat_append, ← Nat.shiftLeft_add_eq_or_of_lt lo.isLt, Nat.shiftLeft_eq]

theorem hiByte_toNat (v : Word) : (hiByte v).toNat = v.toNat / 256 := by
  unfold hiByte
  rw [BitVec.extractLsb'_toNat, Nat.shiftRight_eq_div_pow]
  have := v.isLt
  omega

theorem loByte_toNat (v : Word) : (loByte v).toNat = v.toNat % 256 := by
  unfold loByte
  rw [BitVec.extractLsb'_toNat]
  simp

@[simp] theorem hiByte_mkWord (hi lo : Byte) : hiByte (mkWord hi lo) = hi := by
  have := lo.isLt
  apply BitVec.eq_of_toNat_eq
  rw [hiByte_toNat, mkWord_toNat]
  omega

@[simp] theorem loByte_mkWord (hi lo : Byte) : loByte (mkWord hi lo) = lo := by
  have := lo.isLt
  apply BitVec.eq_of_toNat_eq
  rw [loByte_toNat, mkWord_toNat]
  omega

@[simp] theorem mkWord_hi_lo (v : Word) : mkWord (hiByte v) (loByte v) = v := by
  apply BitVec.eq_of_toNat_eq
  rw [mkWord_toNat, hiByte_toNat, loByte_toNat]
  omega

theorem mkWord_eq_ofNat (hi lo : Byte) : mkWord hi lo = BitVec.ofNat 16 (hi.toNat * 256 + lo.toNat) := by
  rw [← mkWord_toNat, BitVec.ofNat_toNat, BitVec.setWidth_eq]

/-! ### Addresses near each other -/

theorem sub16_one_ne_two (x : Word) : sub16 x 1#16 ≠ sub16 x 2#16 := by
  intro h; have := congrArg BitVec.toNat h; simp at this; omega

theorem add16_one_ne (x : Word) : add16 x 1#16 ≠ x := by
  intro h; have := congrArg BitVec.toNat h; simp at this; omega

@[simp] theorem add16_sub16_two (x : Word) : add16 (sub16 x 2#16) 2#16 = x := by
  apply BitVec.eq_of_toNat_eq; simp

@[simp] theorem sub16_add16_two (x : Word) : sub16 (add16 x 2#16) 2#16 = x := by
  apply BitVec.eq_of_toNat_eq; simp

theorem add16_one_sub16_two (x : Word) : add16 (sub16 x 2#16) 1#16 = sub16 x 1#16 := by
  apply BitVec.eq_of_toNat_eq; simp; omega

theorem sub16_one_add16_two (x : Word) : sub16 (add16 x 2#16) 1#16 = add16 x 1#16 := by
  apply BitVec.eq_of_toNat_eq; simp; omega

/-! ### The flag byte -/

theorem packF_toNat (f : Flags) :
    (packF f).toNat = f.z.toNat * 0x80 + f.n.toNat * 0x40 + f.h.toNat * 0x20 + f.c.toNat * 0x10 := by
  obtain ⟨z, n, h, c⟩ := f
  cases z <;> cases n <;> cases h <;> cases c <;> rfl

theorem unpackF_packF (f : Flags) : unpackF (packF f) = f := by
  obtain ⟨z, n, h, c⟩ := f
  cases z <;> cases n <;> cases h <;> cases c <;> rfl

end Sys2Proof.Machine
end

