-- ==== Sys2Proof/Laws/Store.lean ====
section
/-! SUPPORT. What the sparse storage does, once: reading after writing, the canonical form kept, and equality of canonical
storages that read alike. -/

namespace Sys2Proof.Machine

variable {β : Type} [DecidableEq β] (dflt : β)

omit [DecidableEq β] in
theorem Store.mem_erase {k : Nat} {e : Nat × β} {m : List (Nat × β)} : e ∈ Store.erase k m ↔ e ∈ m ∧ e.1 ≠ k := by
  induction m with
  | nil => simp [Store.erase]
  | cons x m ih =>
    by_cases hx : x.1 = k
    · simp only [Store.erase, hx, if_true, ih, List.mem_cons]
      constructor
      · rintro ⟨hm, hk⟩; exact ⟨.inr hm, hk⟩
      · rintro ⟨rfl | hm, hk⟩
        · exact absurd hx hk
        · exact ⟨hm, hk⟩
    · simp only [Store.erase, hx, if_false, ih, List.mem_cons]
      constructor
      · rintro (rfl | ⟨hm, hk⟩)
        · exact ⟨.inl rfl, hx⟩
        · exact ⟨.inr hm, hk⟩
      · rintro ⟨rfl | hm, hk⟩
        · exact .inl rfl
        · exact .inr ⟨hm, hk⟩

omit [DecidableEq β] in
theorem Store.mem_insert {n e : Nat × β} {m : List (Nat × β)} : e ∈ Store.insert n m ↔ e = n ∨ e ∈ m := by
  induction m with
  | nil => simp [Store.insert]
  | cons x m ih =>
    simp only [Store.insert]
    split
    · simp
    · simp only [List.mem_cons, ih]; tauto

omit [DecidableEq β] in
theorem Store.get_erase (k j : Nat) (m : List (Nat × β)) :
    Store.get dflt (Store.erase k m) j = if j = k then dflt else Store.get dflt m j := by
  induction m with
  | nil => simp [Store.erase, Store.get]
  | cons x m ih =>
    by_cases hx : x.1 = k
    · simp only [Store.erase, hx, if_true, ih, Store.get]
      by_cases hj : j = k
      · simp [hj]
      · simp [hj, Ne.symm hj]
    · simp only [Store.erase, hx, if_false, Store.get, ih]
      by_cases hj : j = k
      · subst hj; simp [hx]
      · simp [hj]

omit [DecidableEq β] in
theorem Store.get_insert (k j : Nat) (v : β) (m : List (Nat × β)) (hk : ∀ e ∈ m, e.1 ≠ k) :
    Store.get dflt (Store.insert (k, v) m) j = if j = k then v else Store.get dflt m j := by
  induction m with
  | nil => simp [Store.insert, Store.get, eq_comm]
  | cons x m ih =>
    have hx : x.1 ≠ k := hk x (by simp)
    have ih' := ih (fun e he => hk e (by simp [he]))
    simp only [Store.insert]
    split
    · simp [Store.get, eq_comm]
    · simp only [Store.get, ih']
      by_cases hj : j = k
      · subst hj; simp [hx]
      · simp [hj]

/-- Reading after writing, at the same and at every other index. -/
theorem Store.get_set (m : List (Nat × β)) (k : Nat) (v : β) (j : Nat) :
    Store.get dflt (Store.set dflt m k v) j = if j = k then v else Store.get dflt m j := by
  unfold Store.set
  split
  · next h => rw [Store.get_erase, h]
  · rw [Store.get_insert dflt k j v _ (fun e he => (Store.mem_erase.1 he).2), Store.get_erase]
    split <;> rfl

/-- Every entry after a write is the one written or an old one. -/
theorem Store.mem_set {m : List (Nat × β)} {k : Nat} {v : β} {e : Nat × β} (h : e ∈ Store.set dflt m k v) :
    e = (k, v) ∨ e ∈ m := by
  unfold Store.set at h
  split at h
  · exact .inr (Store.mem_erase.1 h).1
  · exact (Store.mem_insert.1 h).imp id fun h => (Store.mem_erase.1 h).1

theorem Store.wf_cons {e : Nat × β} {m : List (Nat × β)} :
    Store.wf dflt (e :: m) = true ↔ e.2 ≠ dflt ∧ (∀ o ∈ m, e.1 < o.1) ∧ Store.wf dflt m = true := by
  simp [Store.wf, and_assoc]

theorem Store.wf_erase {k : Nat} {m : List (Nat × β)} (h : Store.wf dflt m = true) :
    Store.wf dflt (Store.erase k m) = true := by
  induction m with
  | nil => rfl
  | cons x m ih =>
    obtain ⟨h1, h2, h3⟩ := (Store.wf_cons dflt).1 h
    simp only [Store.erase]
    split
    · exact ih h3
    · exact (Store.wf_cons dflt).2 ⟨h1, fun o ho => h2 o (Store.mem_erase.1 ho).1, ih h3⟩

theorem Store.wf_insert {k : Nat} {v : β} {m : List (Nat × β)} (hv : v ≠ dflt) (hk : ∀ e ∈ m, e.1 ≠ k)
    (h : Store.wf dflt m = true) : Store.wf dflt (Store.insert (k, v) m) = true := by
  induction m with
  | nil => simp [Store.insert, Store.wf, hv]
  | cons x m ih =>
    obtain ⟨h1, h2, h3⟩ := (Store.wf_cons dflt).1 h
    have hx := hk x (by simp)
    simp only [Store.insert]
    split
    · next hlt =>
      refine (Store.wf_cons dflt).2 ⟨hv, fun o ho => ?_, h⟩
      rcases List.mem_cons.1 ho with rfl | ho
      · exact hlt
      · exact lt_trans hlt (h2 o ho)
    · next hge =>
      refine (Store.wf_cons dflt).2 ⟨h1, fun o ho => ?_, ih (fun e he => hk e (by simp [he])) h3⟩
      rcases Store.mem_insert.1 ho with rfl | ho
      · exact lt_of_le_of_ne (Nat.le_of_not_lt hge) hx
      · exact h2 o ho

/-- Every write keeps the canonical form. -/
theorem Store.wf_set {m : List (Nat × β)} (k : Nat) (v : β) (h : Store.wf dflt m = true) :
    Store.wf dflt (Store.set dflt m k v) = true := by
  unfold Store.set
  split
  · exact Store.wf_erase dflt h
  · next hv => exact Store.wf_insert dflt hv (fun e he => (Store.mem_erase.1 he).2) (Store.wf_erase dflt h)

omit [DecidableEq β] in
theorem Store.get_eq_dflt {m : List (Nat × β)} {k : Nat} (h : ∀ e ∈ m, e.1 ≠ k) : Store.get dflt m k = dflt := by
  induction m with
  | nil => rfl
  | cons x m ih =>
    simp only [Store.get, if_neg (h x (by simp))]
    exact ih fun e he => h e (by simp [he])

/-- Two canonical storages that read alike are the same list. -/
theorem Store.ext_of_wf : ∀ {m m' : List (Nat × β)}, Store.wf dflt m = true → Store.wf dflt m' = true →
    (∀ k, Store.get dflt m k = Store.get dflt m' k) → m = m'
  | [], [], _, _, _ => rfl
  | [], y :: m', _, h', hg => by
    have := hg y.1
    simp [Store.get] at this
    exact absurd this.symm ((Store.wf_cons dflt).1 h').1
  | x :: m, [], h, _, hg => by
    have := hg x.1
    simp [Store.get] at this
    exact absurd this ((Store.wf_cons dflt).1 h).1
  | x :: m, y :: m', h, h', hg => by
    obtain ⟨hx, hxm, hm⟩ := (Store.wf_cons dflt).1 h
    obtain ⟨hy, hym, hm'⟩ := (Store.wf_cons dflt).1 h'
    have hxx := hg x.1
    have hyy := hg y.1
    simp only [Store.get, if_true] at hxx hyy
    have hk : x.1 = y.1 := by
      rcases lt_trichotomy x.1 y.1 with hlt | heq | hgt
      · rw [if_neg hlt.ne', Store.get_eq_dflt dflt (fun e he => (lt_trans hlt (hym e he)).ne')] at hxx
        exact absurd hxx hx
      · exact heq
      · rw [if_neg hgt.ne', Store.get_eq_dflt dflt (fun e he => (lt_trans hgt (hxm e he)).ne')] at hyy
        exact absurd hyy.symm hy
    have hv : x.2 = y.2 := by simpa [hk] using hxx
    have htail : m = m' := Store.ext_of_wf hm hm' fun k => by
      by_cases hkx : k = x.1
      · rw [hkx, Store.get_eq_dflt dflt (fun e he => (hxm e he).ne'),
          Store.get_eq_dflt dflt (fun e he => (hk ▸ hym e he).ne')]
      · have := hg k
        simpa [Store.get, Ne.symm hkx, hk ▸ Ne.symm hkx] using this
    rw [htail, Prod.ext hk hv]

end Sys2Proof.Machine
end

