-- ==== Sys2Proof/Laws/Bus.lean ====
section
/-! SUPPORT. What the bus, the video unit and the stack operations do, once: reads after writes, what a write leaves alone, the
tile cache after a write, and the invariant kept. -/

namespace Sys2Proof.Machine

/-! ### The parameters of the bus -/

@[simp] theorem config_vramBase : config.vramBase = 0x8000 := rfl
@[simp] theorem config_vramLast : config.vramLast = 0x9FFF := rfl
@[simp] theorem config_vramSize : config.vramSize = 0x2000 := rfl
@[simp] theorem config_plainSize : config.plainSize = 0x10000 := rfl
@[simp] theorem config_tileDataSize : config.tileDataSize = 0x1800 := rfl
@[simp] theorem config_tileCount : config.tileCount = 384 := rfl
@[simp] theorem config_tileRows : config.tileRows = 8 := rfl
@[simp] theorem config_tileCols : config.tileCols = 8 := rfl

theorem owner_video_iff (x : Word) : owner x = .VIDEO ↔ 0x8000 ≤ x.toNat ∧ x.toNat ≤ 0x9FFF := by
  unfold owner
  by_cases h : 0x8000 ≤ x.toNat ∧ x.toNat ≤ 0x9FFF
  · simp [h]
  · simp only [config_vramBase, config_vramLast, h, if_false, reduceCtorEq]

theorem owner_plain_iff (x : Word) : owner x = .PLAIN ↔ ¬(0x8000 ≤ x.toNat ∧ x.toNat ≤ 0x9FFF) := by
  rw [← owner_video_iff]
  cases owner x <;> simp

theorem videoOffset_eq_iff {x y : Word} (hx : owner x = .VIDEO) (hy : owner y = .VIDEO) :
    videoOffset x = videoOffset y ↔ x = y := by
  rw [owner_video_iff] at hx hy
  unfold videoOffset
  simp only [config_vramBase]
  constructor
  · intro h; apply BitVec.eq_of_toNat_eq; omega
  · rintro rfl; rfl

theorem videoOffset_eq (x : Word) : videoOffset x = x.toNat - 0x8000 := by
  unfold videoOffset
  rw [config_vramBase]

theorem videoOffset_lt {x : Word} (hx : owner x = .VIDEO) : videoOffset x < 0x2000 := by
  rw [owner_video_iff] at hx
  unfold videoOffset
  simp only [config_vramBase]
  omega

/-! ### One write -/

/-- What a bus write does to everything but the three storages: nothing. -/
theorem memWrite_parts (s : State) (x : Word) (v : Byte) :
    ∃ p vr ts, memWrite s x v = { s with plain := p, vram := vr, tiles := ts } := by
  unfold memWrite
  split
  · unfold videoWrite
    split <;> exact ⟨_, _, _, rfl⟩
  · exact ⟨_, _, _, rfl⟩

section fields
variable (s : State) (x : Word) (v : Byte)
@[simp] theorem memWrite_flags : (memWrite s x v).flags = s.flags := by
  obtain ⟨_, _, _, h⟩ := memWrite_parts s x v; rw [h]
@[simp] theorem memWrite_pc : (memWrite s x v).pc = s.pc := by
  obtain ⟨_, _, _, h⟩ := memWrite_parts s x v; rw [h]
@[simp] theorem memWrite_sp : (memWrite s x v).sp = s.sp := by
  obtain ⟨_, _, _, h⟩ := memWrite_parts s x v; rw [h]
@[simp] theorem memWrite_halted : (memWrite s x v).halted = s.halted := by
  obtain ⟨_, _, _, h⟩ := memWrite_parts s x v; rw [h]
@[simp] theorem memWrite_reg (r : Reg8) : (memWrite s x v).reg r = s.reg r := by
  obtain ⟨_, _, _, h⟩ := memWrite_parts s x v; rw [h]; cases r <;> rfl
end fields

theorem memWrite_plain_eq {s : State} {x : Word} (h : owner x = .PLAIN) (v : Byte) :
    memWrite s x v = plainWrite s x v := by
  unfold memWrite; rw [h]

theorem memWrite_video_eq {s : State} {x : Word} (h : owner x = .VIDEO) (v : Byte) :
    memWrite s x v = videoWrite s (videoOffset x) v := by
  unfold memWrite; rw [h]

@[simp] theorem videoWrite_plain (s : State) (o : Nat) (v : Byte) : (videoWrite s o v).plain = s.plain := by
  unfold videoWrite; split <;> rfl

@[simp] theorem videoWrite_vram (s : State) (o : Nat) (v : Byte) :
    (videoWrite s o v).vram = Store.set unwrittenByte s.vram o v := by
  unfold videoWrite; split <;> rfl

theorem vramByte_videoWrite (s : State) (o : Nat) (v : Byte) (i : Nat) :
    vramByte (videoWrite s o v) i = if i = o then v else vramByte s i := by
  unfold vramByte; rw [videoWrite_vram, Store.get_set]

theorem vramByte_storeVram (s : State) (o : Nat) (v : Byte) (i : Nat) :
    vramByte (storeVram s o v) i = if i = o then v else vramByte s i :=
  Store.get_set unwrittenByte s.vram o v i

theorem plainByte_plainWrite (s : State) (x : Word) (v : Byte) (i : Nat) :
    plainByte (plainWrite s x v) i = if i = x.toNat then v else plainByte s i :=
  Store.get_set unwrittenByte s.plain x.toNat v i

/-- Reading after writing, at the same and at every other address. -/
theorem memRead_memWrite (s : State) (x : Word) (v : Byte) (y : Word) :
    memRead (memWrite s x v) y = if y = x then v else memRead s y := by
  cases hx : owner x
  · rw [memWrite_video_eq hx]
    cases hy : owner y
    · simp only [memRead, hy, vramByte_videoWrite, videoOffset_eq_iff hy hx]
    · have : y ≠ x := by rintro rfl; simp [hx] at hy
      simp only [memRead, hy, plainByte, videoWrite_plain, if_neg this]
  · rw [memWrite_plain_eq hx]
    cases hy : owner y
    · have : y ≠ x := by rintro rfl; simp [hx] at hy
      simp only [memRead, hy, vramByte, plainWrite, if_neg this]
    · simp only [memRead, hy, plainByte_plainWrite, ← BitVec.toNat_inj]

@[simp] theorem memRead_memWrite_same (s : State) (x : Word) (v : Byte) : memRead (memWrite s x v) x = v := by
  simp [memRead_memWrite]

theorem memRead_memWrite_other (s : State) {x y : Word} (v : Byte) (h : y ≠ x) :
    memRead (memWrite s x v) y = memRead s y := by simp [memRead_memWrite, h]

/-! ### The tile cache after a write -/

theorem pixelIndex_inj {t r c t' r' c' : Nat} (hr : r < 8) (hc : c < 8) (hr' : r' < 8) (hc' : c' < 8) :
    pixelIndex t r c = pixelIndex t' r' c' ↔ t = t' ∧ r = r' ∧ c = c' := by
  unfold pixelIndex
  simp only [config_tileRows, config_tileCols]
  omega

theorem rowOf_lt (o : Nat) : rowOf o < 8 := Nat.mod_lt _ (by decide)

theorem get_writeColumns (highb lowb : Byte) {t r t' r' c' : Nat} (hr : r < 8) (hr' : r' < 8) (hc' : c' < 8) :
    ∀ (cols : List Nat) (ts : List (Nat × Shade)), (∀ c ∈ cols, c < 8) →
    Store.get unwrittenShade (writeColumns highb lowb t r cols ts) (pixelIndex t' r' c') =
      if t' = t ∧ r' = r ∧ c' ∈ cols then planeShade highb lowb c'
      else Store.get unwrittenShade ts (pixelIndex t' r' c')
  | [], ts, _ => by simp [writeColumns]
  | c :: cols, ts, h => by
    have hc : c < 8 := h c (by simp)
    rw [writeColumns, get_writeColumns highb lowb hr hr' hc' cols _ (fun x hx => h x (by simp [hx])), Store.get_set]
    simp only [pixelIndex_inj hr' hc' hr hc]
    by_cases h1 : t' = t ∧ r' = r
    · obtain ⟨rfl, rfl⟩ := h1
      by_cases h2 : c' ∈ cols
      · simp [h2]
      · by_cases h3 : c' = c
        · subst h3; simp [h2]
        · simp [h2, h3]
    · have h2 : ¬(t' = t ∧ r' = r ∧ c' ∈ cols) := fun h => h1 ⟨h.1, h.2.1⟩
      have h3 : ¬(t' = t ∧ r' = r ∧ c' = c) := fun h => h1 ⟨h.1, h.2.1⟩
      have h4 : ¬(t' = t ∧ r' = r ∧ c' ∈ c :: cols) := fun h => h1 ⟨h.1, h.2.1⟩
      rw [if_neg h2, if_neg h3, if_neg h4]

theorem mem_tileColumns {c : Nat} : c ∈ tileColumns ↔ c < 8 := by
  unfold tileColumns
  constructor
  · intro h; simp at h; omega
  · intro h; simp; omega

/-- The tile cache after a video write: in tile data, the pixels of the addressed row follow the two bytes as they stand
after the store and every other pixel is as before; elsewhere no pixel changes. -/
theorem tilePixel_videoWrite (s : State) (o : Nat) (v : Byte) {t r c : Nat} (hr : r < 8) (hc : c < 8) :
    tilePixel (videoWrite s o v) t r c =
      if o < 0x1800 ∧ t = tileOf o ∧ r = rowOf o then
        planeShade (vramByte (videoWrite s o v) (rowBase o + 1)) (vramByte (videoWrite s o v) (rowBase o)) c
      else tilePixel s t r c := by
  have hb : ∀ i, vramByte (storeVram s o v) i = vramByte (videoWrite s o v) i := fun i => by
    rw [vramByte_storeVram, vramByte_videoWrite]
  by_cases ho : o < 0x1800
  · have hw : videoWrite s o v = updateTileRow (storeVram s o v) o := by
      unfold videoWrite; exact if_pos ho
    have hts : (storeVram s o v).tiles = s.tiles := (rfl)
    conv_lhs => rw [hw]
    simp only [updateTileRow, tilePixel, hts]
    rw [get_writeColumns _ _ (rowOf_lt o) hr hc _ _ (fun x hx => mem_tileColumns.1 hx)]
    simp only [hb, mem_tileColumns, hc, and_true, ho, true_and]
  · have hw : videoWrite s o v = storeVram s o v := by
      unfold videoWrite; exact if_neg ho
    simp only [ho, false_and, if_false, hw]
    rfl

/-! ### Storages that read alike are equal -/

theorem StorageWf.plain_ext {s t : State} (hs : StorageWf s) (ht : StorageWf t)
    (h : ∀ k, plainByte s k = plainByte t k) : s.plain = t.plain := by
  obtain ⟨h1, -⟩ := hs
  obtain ⟨h2, -⟩ := ht
  unfold Memory.wf at h1 h2
  unfold plainByte at h
  exact Store.ext_of_wf unwrittenByte h1 h2 h

theorem StorageWf.vram_ext {s t : State} (hs : StorageWf s) (ht : StorageWf t)
    (h : ∀ k, vramByte s k = vramByte t k) : s.vram = t.vram := by
  obtain ⟨-, h1, -⟩ := hs
  obtain ⟨-, h2, -⟩ := ht
  unfold Memory.wf at h1 h2
  unfold vramByte at h
  exact Store.ext_of_wf unwrittenByte h1 h2 h

theorem StorageWf.tiles_ext {s t : State} (hs : StorageWf s) (ht : StorageWf t)
    (h : ∀ a r c, r < 8 → c < 8 → tilePixel s a r c = tilePixel t a r c) : s.tiles = t.tiles := by
  obtain ⟨-, -, h1, -⟩ := hs
  obtain ⟨-, -, h2, -⟩ := ht
  refine Store.ext_of_wf unwrittenShade h1 h2 fun k => ?_
  have hk : k = pixelIndex (k / 64) (k / 8 % 8) (k % 8) := by
    unfold pixelIndex
    rw [config_tileRows, config_tileCols]
    omega
  have := h (k / 64) (k / 8 % 8) (k % 8) (Nat.mod_lt _ (by decide)) (Nat.mod_lt _ (by decide))
  unfold tilePixel at this
  rwa [← hk] at this

/-! ### The invariant -/

theorem writeColumns_keeps {P : List (Nat × Shade) → Prop} (highb lowb : Byte) {t r : Nat}
    (step : ∀ ts c v, c < 8 → P ts → P (Store.set unwrittenShade ts (pixelIndex t r c) v)) :
    ∀ (cols : List Nat) (ts : List (Nat × Shade)), (∀ c ∈ cols, c < 8) → P ts → P (writeColumns highb lowb t r cols ts)
  | [], _, _, h => h
  | c :: cols, _, hcols, h =>
    writeColumns_keeps highb lowb step cols _ (fun x hx => hcols x (by simp [hx])) (step _ c _ (hcols c (by simp)) h)

theorem StorageWf.memWrite {s : State} (h : StorageWf s) (x : Word) (v : Byte) : StorageWf (memWrite s x v) := by
  obtain ⟨h1, h2, h3, h4, h5, h6⟩ := h
  cases hx : owner x
  · rw [memWrite_video_eq hx]
    have hv : Memory.wf (Store.set unwrittenByte s.vram (videoOffset x) v) = true := Store.wf_set _ _ _ h2
    have hb : ∀ e ∈ Store.set unwrittenByte s.vram (videoOffset x) v, e.1 < config.vramSize := fun e he => by
      rcases Store.mem_set _ he with rfl | he
      · exact videoOffset_lt hx
      · exact h5 e he
    unfold videoWrite
    split
    · next ho =>
      simp only [config_tileDataSize] at ho
      refine ⟨h1, hv, ?_, h4, hb, ?_⟩
      · exact writeColumns_keeps (P := fun ts => Store.wf unwrittenShade ts = true) _ _
          (fun ts c v _ hts => Store.wf_set _ _ _ hts) _ _ (fun c hc => mem_tileColumns.1 hc) h3
      · refine writeColumns_keeps (P := fun ts => ∀ e ∈ ts, e.1 < config.tileCount * config.tileRows * config.tileCols)
          _ _ (fun ts c v hc hts e he => ?_) _ _ (fun c hc => mem_tileColumns.1 hc) h6
        rcases Store.mem_set _ he with rfl | he
        · have := rowOf_lt (videoOffset x)
          simp only [pixelIndex, tileOf, config_tileCount, config_tileRows, config_tileCols]
          omega
        · exact hts e he
    · exact ⟨h1, hv, h3, h4, hb, h6⟩
  · rw [memWrite_plain_eq hx]
    refine ⟨Store.wf_set _ _ _ h1, h2, h3, fun e he => ?_, h5, h6⟩
    rcases Store.mem_set _ he with rfl | he
    · exact x.isLt
    · exact h4 e he

theorem TilesCoherent.memWrite {s : State} (h : TilesCoherent s) (x : Word) (v : Byte) :
    TilesCoherent (memWrite s x v) := by
  intro t r c ht hr hc
  have h0 := h t r c ht hr hc
  simp only [config_tileCount, config_tileRows, config_tileCols] at ht hr hc
  cases hx : owner x
  · rw [memWrite_video_eq hx, tilePixel_videoWrite s _ v hr hc]
    split
    · next hrow =>
      obtain ⟨ho, ht', hr'⟩ := hrow
      have hbase : rowBase (videoOffset x) = 16 * t + 2 * r := by
        simp only [rowBase, tileOf, rowOf] at ht' hr' ⊢
        omega
      rw [hbase]
      rfl
    · next hrow =>
      rw [h0, vramByte_videoWrite, vramByte_videoWrite, if_neg, if_neg] <;>
      · intro heq
        apply hrow
        simp only [tileOf, rowOf]
        omega
  · rw [memWrite_plain_eq hx]
    exact h0

theorem ShadowUntouched.memWrite {s : State} (h : ShadowUntouched s) (x : Word) (v : Byte) :
    ShadowUntouched (memWrite s x v) := by
  intro i h1 h2
  cases hx : owner x
  · rw [memWrite_video_eq hx]
    simpa only [plainByte, videoWrite_plain] using h i h1 h2
  · rw [memWrite_plain_eq hx, plainByte_plainWrite, if_neg]
    · exact h i h1 h2
    · rw [owner_plain_iff] at hx
      simp only [config_vramBase, config_vramLast] at h1 h2
      omega

/-- Every bus write keeps the invariant. -/
theorem Inv.memWrite {s : State} (h : Inv s) (x : Word) (v : Byte) : Inv (memWrite s x v) :=
  ⟨h.storage.memWrite x v, h.tiles.memWrite x v, h.shadow.memWrite x v⟩

/-- The invariant speaks of the three storages only. -/
theorem Inv.of_storages {s t : State} (hs : Inv s) (hp : t.plain = s.plain) (hv : t.vram = s.vram)
    (ht : t.tiles = s.tiles) : Inv t := by
  cases s; cases t
  simp only at hp hv ht
  subst hp hv ht
  exact ⟨hs.storage, hs.tiles, hs.shadow⟩

theorem Inv.setPc {s : State} (h : Inv s) (v : Word) : Inv (s.setPc v) := h.of_storages rfl rfl rfl
theorem Inv.setSp {s : State} (h : Inv s) (v : Word) : Inv (s.setSp v) := h.of_storages rfl rfl rfl
theorem Inv.setFlags {s : State} (h : Inv s) (v : Flags) : Inv (s.setFlags v) := h.of_storages rfl rfl rfl
theorem Inv.setHalted {s : State} (h : Inv s) (v : Bool) : Inv (s.setHalted v) := h.of_storages rfl rfl rfl
theorem Inv.setReg {s : State} (h : Inv s) (r : Reg8) (v : Byte) : Inv (s.setReg r v) :=
  h.of_storages (by simp) (by simp) (by simp)
theorem Inv.advance {s : State} (h : Inv s) (n : Word) : Inv (advance s n) := h.setPc _
theorem Inv.push16 {s : State} (h : Inv s) (v : Word) : Inv (push16 s v) := ((h.memWrite _ _).memWrite _ _).setSp _

theorem Inv.storeBytes : ∀ (bytes : List Byte) {s : State}, Inv s → ∀ x, Inv (storeBytes s x bytes)
  | [], _, h, _ => h
  | v :: rest, _, h, x => Inv.storeBytes rest (h.memWrite x v) _

/-! ### The stack -/

section stack
variable (s : State) (v : Word)
@[simp] theorem push16_flags : (push16 s v).flags = s.flags := by simp [push16]
@[simp] theorem push16_pc : (push16 s v).pc = s.pc := by simp [push16]
@[simp] theorem push16_sp : (push16 s v).sp = sub16 s.sp 2#16 := (rfl)
@[simp] theorem push16_halted : (push16 s v).halted = s.halted := by simp [push16]
@[simp] theorem push16_reg (r : Reg8) : (push16 s v).reg r = s.reg r := by simp [push16]

/-- What every address reads after a push: the high byte at sp-1, the low byte at sp-2, the rest as before. -/
theorem memRead_push16 (y : Word) :
    memRead (push16 s v) y =
      if y = sub16 s.sp 2#16 then loByte v else if y = sub16 s.sp 1#16 then hiByte v else memRead s y := by
  simp only [push16, memRead_setSp, memRead_memWrite]

omit v in
@[simp] theorem popValue_setPc (x : Word) : popValue (s.setPc x) = popValue s := by simp [popValue]

/-- A pop right after a push returns the value pushed. -/
theorem popValue_push16 : popValue (push16 s v) = v := by
  have h1 : add16 (sub16 s.sp 2#16) 1#16 = sub16 s.sp 1#16 := by
    apply BitVec.eq_of_toNat_eq; simp; omega
  have h2 : sub16 s.sp 1#16 ≠ sub16 s.sp 2#16 := by
    intro h; have := congrArg BitVec.toNat h; simp at this; omega
  unfold popValue
  simp only [push16_sp, h1, memRead_push16, if_neg h2, if_true, mkWord_hi_lo]
end stack

end Sys2Proof.Machine
end

