-- ==== Sys2Proof/Laws/PerInstr.lean ====
section
/-! SUPPORT. The per-instruction family `FormView`: `Instr.form` followed by `Form.instr` gives the instruction back, so a
statement about every instruction is a statement about every form. -/

namespace Sys2Proof.Laws

/-- Reading an instruction's form and writing the form as an instruction loses nothing. -/
def FormView.Statement (i : Instr) : Prop := i.form.instr = i

theorem FormView.add_A_B : FormView.Statement (.add_A_B) := rfl
theorem FormView.add_A_C : FormView.Statement (.add_A_C) := rfl
theorem FormView.add_A_D : FormView.Statement (.add_A_D) := rfl
theorem FormView.add_A_E : FormView.Statement (.add_A_E) := rfl
theorem FormView.add_A_H : FormView.Statement (.add_A_H) := rfl
theorem FormView.add_A_L : FormView.Statement (.add_A_L) := rfl
theorem FormView.add_A_A : FormView.Statement (.add_A_A) := rfl
theorem FormView.ld_B_B : FormView.Statement (.ld_B_B) := rfl
theorem FormView.ld_B_C : FormView.Statement (.ld_B_C) := rfl
theorem FormView.ld_B_D : FormView.Statement (.ld_B_D) := rfl
theorem FormView.ld_B_E : FormView.Statement (.ld_B_E) := rfl
theorem FormView.ld_B_H : FormView.Statement (.ld_B_H) := rfl
theorem FormView.ld_B_L : FormView.Statement (.ld_B_L) := rfl
theorem FormView.ld_B_A : FormView.Statement (.ld_B_A) := rfl
theorem FormView.ld_C_B : FormView.Statement (.ld_C_B) := rfl
theorem FormView.ld_C_C : FormView.Statement (.ld_C_C) := rfl
theorem FormView.ld_C_D : FormView.Statement (.ld_C_D) := rfl
theorem FormView.ld_C_E : FormView.Statement (.ld_C_E) := rfl
theorem FormView.ld_C_H : FormView.Statement (.ld_C_H) := rfl
theorem FormView.ld_C_L : FormView.Statement (.ld_C_L) := rfl
theorem FormView.ld_C_A : FormView.Statement (.ld_C_A) := rfl
theorem FormView.ld_D_B : FormView.Statement (.ld_D_B) := rfl
theorem FormView.ld_D_C : FormView.Statement (.ld_D_C) := rfl
theorem FormView.ld_D_D : FormView.Statement (.ld_D_D) := rfl
theorem FormView.ld_D_E : FormView.Statement (.ld_D_E) := rfl
theorem FormView.ld_D_H : FormView.Statement (.ld_D_H) := rfl
theorem FormView.ld_D_L : FormView.Statement (.ld_D_L) := rfl
theorem FormView.ld_D_A : FormView.Statement (.ld_D_A) := rfl
theorem FormView.ld_E_B : FormView.Statement (.ld_E_B) := rfl
theorem FormView.ld_E_C : FormView.Statement (.ld_E_C) := rfl
theorem FormView.ld_E_D : FormView.Statement (.ld_E_D) := rfl
theorem FormView.ld_E_E : FormView.Statement (.ld_E_E) := rfl
theorem FormView.ld_E_H : FormView.Statement (.ld_E_H) := rfl
theorem FormView.ld_E_L : FormView.Statement (.ld_E_L) := rfl
theorem FormView.ld_E_A : FormView.Statement (.ld_E_A) := rfl
theorem FormView.ld_H_B : FormView.Statement (.ld_H_B) := rfl
theorem FormView.ld_H_C : FormView.Statement (.ld_H_C) := rfl
theorem FormView.ld_H_D : FormView.Statement (.ld_H_D) := rfl
theorem FormView.ld_H_E : FormView.Statement (.ld_H_E) := rfl
theorem FormView.ld_H_H : FormView.Statement (.ld_H_H) := rfl
theorem FormView.ld_H_L : FormView.Statement (.ld_H_L) := rfl
theorem FormView.ld_H_A : FormView.Statement (.ld_H_A) := rfl
theorem FormView.ld_L_B : FormView.Statement (.ld_L_B) := rfl
theorem FormView.ld_L_C : FormView.Statement (.ld_L_C) := rfl
theorem FormView.ld_L_D : FormView.Statement (.ld_L_D) := rfl
theorem FormView.ld_L_E : FormView.Statement (.ld_L_E) := rfl
theorem FormView.ld_L_H : FormView.Statement (.ld_L_H) := rfl
theorem FormView.ld_L_L : FormView.Statement (.ld_L_L) := rfl
theorem FormView.ld_L_A : FormView.Statement (.ld_L_A) := rfl
theorem FormView.ld_A_B : FormView.Statement (.ld_A_B) := rfl
theorem FormView.ld_A_C : FormView.Statement (.ld_A_C) := rfl
theorem FormView.ld_A_D : FormView.Statement (.ld_A_D) := rfl
theorem FormView.ld_A_E : FormView.Statement (.ld_A_E) := rfl
theorem FormView.ld_A_H : FormView.Statement (.ld_A_H) := rfl
theorem FormView.ld_A_L : FormView.Statement (.ld_A_L) := rfl
theorem FormView.ld_A_A : FormView.Statement (.ld_A_A) := rfl
theorem FormView.ld_B_d8 : FormView.Statement (.ld_B_d8) := rfl
theorem FormView.ld_C_d8 : FormView.Statement (.ld_C_d8) := rfl
theorem FormView.ld_D_d8 : FormView.Statement (.ld_D_d8) := rfl
theorem FormView.ld_E_d8 : FormView.Statement (.ld_E_d8) := rfl
theorem FormView.ld_H_d8 : FormView.Statement (.ld_H_d8) := rfl
theorem FormView.ld_L_d8 : FormView.Statement (.ld_L_d8) := rfl
theorem FormView.ld_A_d8 : FormView.Statement (.ld_A_d8) := rfl
theorem FormView.ld_B_atHL : FormView.Statement (.ld_B_atHL) := rfl
theorem FormView.ld_C_atHL : FormView.Statement (.ld_C_atHL) := rfl
theorem FormView.ld_D_atHL : FormView.Statement (.ld_D_atHL) := rfl
theorem FormView.ld_E_atHL : FormView.Statement (.ld_E_atHL) := rfl
theorem FormView.ld_H_atHL : FormView.Statement (.ld_H_atHL) := rfl
theorem FormView.ld_L_atHL : FormView.Statement (.ld_L_atHL) := rfl
theorem FormView.ld_A_atHL : FormView.Statement (.ld_A_atHL) := rfl
theorem FormView.ld_atHL_B : FormView.Statement (.ld_atHL_B) := rfl
theorem FormView.ld_atHL_C : FormView.Statement (.ld_atHL_C) := rfl
theorem FormView.ld_atHL_D : FormView.Statement (.ld_atHL_D) := rfl
theorem FormView.ld_atHL_E : FormView.Statement (.ld_atHL_E) := rfl
theorem FormView.ld_atHL_H : FormView.Statement (.ld_atHL_H) := rfl
theorem FormView.ld_atHL_L : FormView.Statement (.ld_atHL_L) := rfl
theorem FormView.ld_atHL_A : FormView.Statement (.ld_atHL_A) := rfl
theorem FormView.ld_atHL_d8 : FormView.Statement (.ld_atHL_d8) := rfl
theorem FormView.jp_a16 : FormView.Statement (.jp_a16) := rfl
theorem FormView.jp_NZ_a16 : FormView.Statement (.jp_NZ_a16) := rfl
theorem FormView.jp_Z_a16 : FormView.Statement (.jp_Z_a16) := rfl
theorem FormView.jp_NC_a16 : FormView.Statement (.jp_NC_a16) := rfl
theorem FormView.jp_C_a16 : FormView.Statement (.jp_C_a16) := rfl
theorem FormView.push_BC : FormView.Statement (.push_BC) := rfl
theorem FormView.push_DE : FormView.Statement (.push_DE) := rfl
theorem FormView.push_HL : FormView.Statement (.push_HL) := rfl
theorem FormView.push_AF : FormView.Statement (.push_AF) := rfl
theorem FormView.pop_BC : FormView.Statement (.pop_BC) := rfl
theorem FormView.pop_DE : FormView.Statement (.pop_DE) := rfl
theorem FormView.pop_HL : FormView.Statement (.pop_HL) := rfl
theorem FormView.pop_AF : FormView.Statement (.pop_AF) := rfl
theorem FormView.call_a16 : FormView.Statement (.call_a16) := rfl
theorem FormView.call_NZ_a16 : FormView.Statement (.call_NZ_a16) := rfl
theorem FormView.call_Z_a16 : FormView.Statement (.call_Z_a16) := rfl
theorem FormView.call_NC_a16 : FormView.Statement (.call_NC_a16) := rfl
theorem FormView.call_C_a16 : FormView.Statement (.call_C_a16) := rfl
theorem FormView.ret : FormView.Statement (.ret) := rfl
theorem FormView.ret_NZ : FormView.Statement (.ret_NZ) := rfl
theorem FormView.ret_Z : FormView.Statement (.ret_Z) := rfl
theorem FormView.ret_NC : FormView.Statement (.ret_NC) := rfl
theorem FormView.ret_C : FormView.Statement (.ret_C) := rfl
theorem FormView.nop : FormView.Statement (.nop) := rfl
theorem FormView.halt : FormView.Statement (.halt) := rfl
theorem FormView.prefixLeadIn : FormView.Statement (.prefixLeadIn) := rfl
theorem FormView.illegal (b : Byte) : FormView.Statement (.illegal b) := rfl
theorem FormView.illegalPrefixed (b : Byte) : FormView.Statement (.illegalPrefixed b) := rfl

end Sys2Proof.Laws
end

