-- ==== Sys2Proof/Laws/Decode.lean ====
section
/-! SUPPORT. What the decoder does, once: the table lookup byte by byte, and the two views of an instruction. -/

namespace Sys2Proof

/-- Every byte, one by one: the finite fact the decoder's laws rest on. -/
theorem Byte.forall_of_ofNat {P : Byte → Prop} (h : ∀ n : Fin 256, P (BitVec.ofFin n)) (b : Byte) : P b := h b.toFin

theorem Instr.instr_form (i : Instr) : i.form.instr = i := by cases i <;> rfl

theorem Form.form_instr (f : Form) : f.instr.form = f := by
  cases f with
  | addReg r => cases r <;> rfl
  | ldRegReg d r => cases d <;> cases r <;> rfl
  | ldRegImm d => cases d <;> rfl
  | ldRegHl d => cases d <;> rfl
  | ldHlReg r => cases r <;> rfl
  | jpCond cc => cases cc <;> rfl
  | pushPair rr => cases rr <;> rfl
  | popPair rr => cases rr <;> rfl
  | callCond cc => cases cc <;> rfl
  | retCond cc => cases cc <;> rfl
  | _ => rfl

theorem Instr.form_inj {i j : Instr} (h : i.form = j.form) : i = j := by
  rw [← i.instr_form, h, j.instr_form]

@[simp] theorem decodeByte_false (b : Byte) : decodeByte b false = decodePrimary b := rfl
@[simp] theorem decodeByte_true (b : Byte) : decodeByte b true = .illegalPrefixed b := rfl

/-- A byte outside R100's list that is not the lead-in is the opcode of what it decodes to; a byte in the list decodes to
its own illegal slot. -/
theorem decodePrimary_cases (b : Byte) :
    (b = config.prefixByte ∧ decodePrimary b = .prefixLeadIn) ∨
    (isIllegalSlot b = true ∧ decodePrimary b = .illegal b) ∨
    (isIllegalSlot b = false ∧ b ≠ config.prefixByte ∧ (decodePrimary b).isDecodeFailure = false ∧
      (decodePrimary b).form.opcode = b) := by
  revert b
  apply Byte.forall_of_ofNat
  decide +kernel

end Sys2Proof
end

