-- ==== Sys2Proof/Laws/Exec.lean ====
section
/-! SUPPORT. What one execution and one step can do, once: execution read by form, the inversion of `exec` and of `step`, the
pieces of state each form leaves alone, and the invariant kept. -/

namespace Sys2Proof.Machine

/-- The state a form commits, where it commits one. -/
def formNext : Form → State → Option State
  | .addReg r, s => some (addReg r s)
  | .ldRegReg d r, s => some (ldRegReg d r s)
  | .ldRegImm d, s => some (ldRegImm d s)
  | .ldRegHl d, s => some (ldRegHl d s)
  | .ldHlReg r, s => some (ldHlReg r s)
  | .ldHlImm, s => some (ldHlImm s)
  | .jp, s => some (jumpImm s)
  | .jpCond cc, s => some (jumpCond cc s)
  | .pushPair rr, s => some (pushPair rr s)
  | .pushAf, s => some (pushAf s)
  | .popPair rr, s => some (popPair rr s)
  | .popAf, s => some (popAf s)
  | .call, s => some (callImm s)
  | .callCond cc, s => some (callCond cc s)
  | .ret, s => some (retAlways s)
  | .retCond cc, s => some (retCond cc s)
  | .nop, s => some (nopStep s)
  | .halt, s => some (haltStep s)
  | .prefixLeadIn, _ => none
  | .illegal _, _ => none
  | .illegalPrefixed _, _ => none

/-- The byte and table an illegal form's condition reports. -/
def formCondition : Form → State → Byte × Bool
  | .illegal b, _ => (b, false)
  | .illegalPrefixed b, _ => (b, true)
  | _, s => (memRead s (add16 s.pc 1#16), true)

/-- Execution by form: the form's state where there is one, else IllegalOpcode. -/
theorem exec_by_form (i : Instr) (s : State) :
    exec i s = match formNext i.form s with
      | some t => .next t
      | none => .fault (.illegalOpcode s.pc (formCondition i.form s).1 (formCondition i.form s).2) := by
  cases i <;> rfl

/-- Inversion of `exec`: a next state is the form's state. -/
theorem exec_next_iff {i : Instr} {s t : State} : exec i s = .next t ↔ formNext i.form s = some t := by
  rw [exec_by_form]
  cases formNext i.form s <;> simp

/-- The form's state, where there is one, is what `exec` answers. -/
theorem exec_next_of_form {i : Instr} {s t : State} (h : formNext i.form s = some t) : exec i s = .next t :=
  exec_next_iff.2 h

/-- Execution of the instruction of a form. -/
theorem exec_instr {f : Form} {s t : State} (h : formNext f s = some t) : exec f.instr s = .next t :=
  exec_next_of_form (by rw [Form.form_instr]; exact h)

/-- Inversion of `step`: a halted core does nothing, a running core executes the instruction at pc. -/
theorem step_next_cases {s t : State} (h : step s = .next t) :
    (s.halted = true ∧ t = s) ∨ (s.halted = false ∧ formNext (fetchInstr s).form s = some t) := by
  unfold step at h
  cases hh : s.halted
  · simp only [hh, Bool.false_eq_true, if_false] at h
    exact .inr ⟨rfl, exec_next_iff.1 h⟩
  · simp only [hh, if_true, Host.Outcome.next.injEq] at h
    exact .inl ⟨rfl, h.symm⟩

/-- A running core executes the instruction at pc. -/
theorem step_running {s : State} (h : s.halted = false) : step s = exec (fetchInstr s) s := by
  simp [step, h]

/-- A halted core does nothing. -/
theorem step_halted {s : State} (h : s.halted = true) : step s = .next s := by
  simp [step, h]

/-- The fetch by the byte at pc, the lead-in apart. -/
theorem fetchInstr_primary {s : State} (h : memRead s s.pc ≠ config.prefixByte) :
    fetchInstr s = decodePrimary (memRead s s.pc) := by
  simp [fetchInstr, h]

/-- The fetch at a lead-in. -/
theorem fetchInstr_prefixed {s : State} (h : memRead s s.pc = config.prefixByte) :
    fetchInstr s = .illegalPrefixed (memRead s (add16 s.pc 1#16)) := by
  simp [fetchInstr, h]

/-- A step either commits a state or reports IllegalOpcode at pc; nothing else. -/
theorem step_outcomes (s : State) :
    (∃ t, step s = .next t) ∨ (s.halted = false ∧ ∃ b p, step s = .fault (.illegalOpcode s.pc b p)) := by
  unfold step
  cases hh : s.halted
  · simp only [Bool.false_eq_true, if_false, true_and]
    rw [exec_by_form]
    cases formNext (fetchInstr s).form s
    · exact .inr ⟨_, _, rfl⟩
    · exact .inl ⟨_, rfl⟩
  · exact .inl ⟨s, by simp⟩

/-! ### The committed state, part by part -/

@[simp] theorem advance_eq (s : State) (n : Word) : advance s n = s.setPc (add16 s.pc n) := (rfl)

section pairs
variable (s : State) (rr : Pair) (v : Word)
@[simp] theorem setPair_flags : (s.setPair rr v).flags = s.flags := by simp [State.setPair]
@[simp] theorem setPair_pc : (s.setPair rr v).pc = s.pc := by simp [State.setPair]
@[simp] theorem setPair_sp : (s.setPair rr v).sp = s.sp := by simp [State.setPair]
@[simp] theorem setPair_halted : (s.setPair rr v).halted = s.halted := by simp [State.setPair]
@[simp] theorem setPair_plain : (s.setPair rr v).plain = s.plain := by simp [State.setPair]
@[simp] theorem setPair_vram : (s.setPair rr v).vram = s.vram := by simp [State.setPair]
@[simp] theorem setPair_tiles : (s.setPair rr v).tiles = s.tiles := by simp [State.setPair]
@[simp] theorem memRead_setPair (x : Word) : memRead (s.setPair rr v) x = memRead s x := by simp [State.setPair]
end pairs

theorem pairHi_ne_pairLo (rr : Pair) : pairHi rr ≠ pairLo rr := by cases rr <;> decide

/-- The a16 operand as R97 writes it. -/
theorem imm16_eq_immediateIn (s : State) : imm16 s = immediateIn s s := mkWord_eq_ofNat _ _

/-- The popped value as R151 writes it. -/
theorem popValue_eq_stackTop (s : State) : popValue s = stackTop s := mkWord_eq_ofNat _ _

/-- The address of (HL) as R140 writes it. -/
theorem hlAddr_eq_ofNat (s : State) : hlAddr s = BitVec.ofNat 16 (s.h.toNat * 256 + s.l.toNat) := mkWord_eq_ofNat _ _

theorem reg_setPair (s : State) (rr : Pair) (v : Word) (r : Reg8) :
    (s.setPair rr v).reg r = if r = pairLo rr then loByte v else if r = pairHi rr then hiByte v else s.reg r := by
  simp [State.setPair, State.reg_setReg]

@[simp] theorem pair_setPair (s : State) (rr : Pair) (v : Word) : (s.setPair rr v).pair rr = v := by
  cases rr <;> simp [State.pair, reg_setPair, pairHi, pairLo]

theorem Inv.setPair {s : State} (h : Inv s) (rr : Pair) (v : Word) : Inv (s.setPair rr v) := (h.setReg _ _).setReg _ _

/-- Every state a form commits keeps the invariant. -/
theorem Inv.formNext {f : Form} {s t : State} (h : Inv s) (ht : formNext f s = some t) : Inv t := by
  have hcall : Inv (callImm s) := (h.push16 _).setPc _
  have hret : Inv (retAlways s) := (h.setSp _).setPc _
  cases f <;> simp only [Machine.formNext, Option.some.injEq, reduceCtorEq] at ht <;> subst ht
  case addReg r => exact ((h.setReg _ _).setFlags _).advance _
  case ldRegReg d r => exact (h.setReg _ _).advance _
  case ldRegImm d => exact (h.setReg _ _).advance _
  case ldRegHl d => exact (h.setReg _ _).advance _
  case ldHlReg r => exact (h.memWrite _ _).advance _
  case ldHlImm => exact (h.memWrite _ _).advance _
  case jp => exact h.setPc _
  case jpCond cc => unfold jumpCond; split; exacts [h.setPc _, h.advance _]
  case pushPair rr => exact (h.push16 _).advance _
  case pushAf => exact (h.push16 _).advance _
  case popPair rr => exact ((h.setSp _).setPair _ _).advance _
  case popAf => exact (((h.setSp _).setReg _ _).setFlags _).advance _
  case call => exact hcall
  case callCond cc => unfold Machine.callCond; split; exacts [hcall, h.setPc _]
  case ret => exact hret
  case retCond cc => unfold Machine.retCond; split; exacts [hret, h.advance _]
  case nop => exact h.advance _
  case halt => exact h.setHalted _

end Sys2Proof.Machine
end

