-- ==== Sys2Proof/Tests/Slice0.lean ====
section
/-! SUPPORT. The model's own tests: written-out encodings, the worked examples and derived vectors of spec/95_test_vectors.md
(each named in its comment), and a witness for every obligation that has hypotheses. -/

namespace Sys2Proof.Machine

/-! ### Well-formedness -/

/-- R92: 0x00 is NOP, so no unimplemented slot carries it. -/
theorem test_wf_refuses_slot_00 : (Instr.illegal 0x00).wf = false := by decide

/-- R92: 0x76 is HALT, between two loads. -/
theorem test_wf_refuses_slot_76 : (Instr.illegal 0x76).wf = false := by decide

/-- R105: 0xCB is the lead-in, no unimplemented slot. -/
theorem test_wf_refuses_slot_cb : (Instr.illegal 0xCB).wf = false := by decide

theorem test_wf_accepts : (Instr.illegal 0xD3).wf = true ∧ (Instr.illegalPrefixed 0x00).wf = true ∧
    Instr.ld_H_atHL.wf = true ∧ Instr.prefixLeadIn.wf = true := by decide

/-! ### Encodings, written out bit by bit from the fields of 30_encoding.md -/

/-- Every listed byte, alone, decodes to the instruction beside it. -/
def wordsDecode (rows : List (Byte × Instr)) : Bool :=
  rows.all fun row => match decode [row.1] with
    | .ok r => decide (r = (row.2, []))
    | .error _ => false

/-- ADD A,r: `10 000 rrr` (R91, R93). -/
theorem test_words_add : wordsDecode
    [(0b10000000, .add_A_B), (0b10000001, .add_A_C), (0b10000010, .add_A_D), (0b10000011, .add_A_E),
     (0b10000100, .add_A_H), (0b10000101, .add_A_L), (0b10000111, .add_A_A)] = true := by decide

/-- LD B,r: `01 ddd sss` (R91, R93). -/
theorem test_words_ld_B : wordsDecode
    [(0b01000000, .ld_B_B), (0b01000001, .ld_B_C), (0b01000010, .ld_B_D), (0b01000011, .ld_B_E),
     (0b01000100, .ld_B_H), (0b01000101, .ld_B_L), (0b01000111, .ld_B_A)] = true := by decide

/-- LD C,r: `01 ddd sss` (R91, R93). -/
theorem test_words_ld_C : wordsDecode
    [(0b01001000, .ld_C_B), (0b01001001, .ld_C_C), (0b01001010, .ld_C_D), (0b01001011, .ld_C_E),
     (0b01001100, .ld_C_H), (0b01001101, .ld_C_L), (0b01001111, .ld_C_A)] = true := by decide

/-- LD D,r: `01 ddd sss` (R91, R93). -/
theorem test_words_ld_D : wordsDecode
    [(0b01010000, .ld_D_B), (0b01010001, .ld_D_C), (0b01010010, .ld_D_D), (0b01010011, .ld_D_E),
     (0b01010100, .ld_D_H), (0b01010101, .ld_D_L), (0b01010111, .ld_D_A)] = true := by decide

/-- LD E,r: `01 ddd sss` (R91, R93). -/
theorem test_words_ld_E : wordsDecode
    [(0b01011000, .ld_E_B), (0b01011001, .ld_E_C), (0b01011010, .ld_E_D), (0b01011011, .ld_E_E),
     (0b01011100, .ld_E_H), (0b01011101, .ld_E_L), (0b01011111, .ld_E_A)] = true := by decide

/-- LD H,r: `01 ddd sss` (R91, R93). -/
theorem test_words_ld_H : wordsDecode
    [(0b01100000, .ld_H_B), (0b01100001, .ld_H_C), (0b01100010, .ld_H_D), (0b01100011, .ld_H_E),
     (0b01100100, .ld_H_H), (0b01100101, .ld_H_L), (0b01100111, .ld_H_A)] = true := by decide

/-- LD L,r: `01 ddd sss` (R91, R93). -/
theorem test_words_ld_L : wordsDecode
    [(0b01101000, .ld_L_B), (0b01101001, .ld_L_C), (0b01101010, .ld_L_D), (0b01101011, .ld_L_E),
     (0b01101100, .ld_L_H), (0b01101101, .ld_L_L), (0b01101111, .ld_L_A)] = true := by decide

/-- LD A,r: `01 ddd sss` (R91, R93). -/
theorem test_words_ld_A : wordsDecode
    [(0b01111000, .ld_A_B), (0b01111001, .ld_A_C), (0b01111010, .ld_A_D), (0b01111011, .ld_A_E),
     (0b01111100, .ld_A_H), (0b01111101, .ld_A_L), (0b01111111, .ld_A_A)] = true := by decide

/-- LD r,d8: `00 ddd 110` (R91, R93). -/
theorem test_words_ld_imm : wordsDecode
    [(0b00000110, .ld_B_d8), (0b00001110, .ld_C_d8), (0b00010110, .ld_D_d8), (0b00011110, .ld_E_d8),
     (0b00100110, .ld_H_d8), (0b00101110, .ld_L_d8), (0b00111110, .ld_A_d8)] = true := by decide

/-- LD r,(HL): `01 ddd 110`; LD (HL),r: `01 110 sss`; LD (HL),d8: `00 110 110` (R91, R93). -/
theorem test_words_ld_hl : wordsDecode
    [(0b01000110, .ld_B_atHL), (0b01001110, .ld_C_atHL), (0b01010110, .ld_D_atHL), (0b01011110, .ld_E_atHL),
     (0b01100110, .ld_H_atHL), (0b01101110, .ld_L_atHL), (0b01111110, .ld_A_atHL), (0b01110000, .ld_atHL_B),
     (0b01110001, .ld_atHL_C), (0b01110010, .ld_atHL_D), (0b01110011, .ld_atHL_E), (0b01110100, .ld_atHL_H),
     (0b01110101, .ld_atHL_L), (0b01110111, .ld_atHL_A), (0b00110110, .ld_atHL_d8)] = true := by decide

/-- JP a16 0xC3; JP cc,a16: `11 0cc 010` (R91, R94). -/
theorem test_words_jump : wordsDecode
    [(0b11000011, .jp_a16), (0b11000010, .jp_NZ_a16), (0b11001010, .jp_Z_a16), (0b11010010, .jp_NC_a16),
     (0b11011010, .jp_C_a16)] = true := by decide

/-- PUSH: `11 pp0 101`; POP: `11 pp0 001` (R91, R95). -/
theorem test_words_stack : wordsDecode
    [(0b11000101, .push_BC), (0b11010101, .push_DE), (0b11100101, .push_HL), (0b11110101, .push_AF),
     (0b11000001, .pop_BC), (0b11010001, .pop_DE), (0b11100001, .pop_HL), (0b11110001, .pop_AF)] = true := by decide

/-- CALL a16 0xCD, RET 0xC9; CALL cc,a16: `11 0cc 100`; RET cc: `11 0cc 000` (R91, R94). -/
theorem test_words_call_ret : wordsDecode
    [(0b11001101, .call_a16), (0b11001001, .ret), (0b11000100, .call_NZ_a16), (0b11001100, .call_Z_a16),
     (0b11010100, .call_NC_a16), (0b11011100, .call_C_a16), (0b11000000, .ret_NZ), (0b11001000, .ret_Z),
     (0b11010000, .ret_NC), (0b11011000, .ret_C)] = true := by decide

/-- NOP 0x00, HALT 0x76 (R92), the lead-in 0xCB alone (R105), the ends of some ranges of R100. -/
theorem test_words_misc : wordsDecode
    [(0b00000000, .nop), (0b01110110, .halt), (0b11001011, .prefixLeadIn), (0b00000001, .illegal 0x01),
     (0b00111111, .illegal 0x3F), (0b10000110, .illegal 0x86), (0b10001000, .illegal 0x88),
     (0b10111111, .illegal 0xBF), (0b11010011, .illegal 0xD3), (0b11100000, .illegal 0xE0),
     (0b11111111, .illegal 0xFF)] = true := by decide

/-- R98, R101: the byte after the lead-in is looked up in the prefixed table, also 0x00 and a second lead-in. -/
theorem test_words_prefixed :
    [decodeTableWord 16 0xCB00, decodeTableWord 16 0xCB37, decodeTableWord 16 0xCBCB, decodeTableWord 16 0xCBFF] =
    [some (.illegalPrefixed 0x00), some (.illegalPrefixed 0x37), some (.illegalPrefixed 0xCB),
     some (.illegalPrefixed 0xFF)] := by decide

/-- The table numbers a primary byte from bit 0. -/
theorem test_table_words : [decodeTableWord 8 0x06, decodeTableWord 8 0xC3, decodeTableWord 8 0xCB,
    decodeTableWord 8 0xD3] = [some .ld_B_d8, some .jp_a16, some .prefixLeadIn, some (.illegal 0xD3)] := by decide

/-- R97: the immediate of JP 0x1234 is `34 12`. -/
theorem test_assemble_little_endian : assemble .jp_a16 0x1234 = [0xC3, 0x34, 0x12] ∧
    assemble .ld_atHL_d8 0x99 = [0x36, 0x99] ∧ assemble .nop 0 = [0x00] := by decide

/-- R90, R99. -/
theorem test_lengths : [Instr.nop.length, Instr.ld_A_d8.length, Instr.call_C_a16.length, (Instr.illegal 0xD3).length] =
    [some 1, some 2, some 3, none] := by decide

/-- The opcode map gives no byte two rows. -/
theorem test_opcode_map_is_unambiguous : (opcodeMap.map Prod.fst).Nodup := by decide

/-! ### Single steps -/

/-- From reset, `bytes` stored through the bus at `pc`, and pc there. -/
def placed (pc : Word) (bytes : List Byte) : State := (storeBytes State.reset pc bytes).setPc pc

/-- The state a step commits, if it commits one. -/
def after (s : State) : Option State :=
  match step s with
  | .next t => some t
  | .fault _ => none
  | .refused _ => none

/-- V-ADD-1 (source example S3). -/
theorem test_add_half_carry : after { placed 0x0100 [0x80] with a := 0x0F, b := 0x01 } =
    some { placed 0x0100 [0x80] with a := 0x10, b := 0x01, flags := unpackF 0x20, pc := 0x0101 } := by decide

/-- V-ADD-2 (source example S3). -/
theorem test_add_carry : after { placed 0x0100 [0x80] with a := 0xFF, b := 0x01 } =
    some { placed 0x0100 [0x80] with a := 0x00, b := 0x01, flags := unpackF 0xB0, pc := 0x0101 } := by decide

/-- V-ADD-4. -/
theorem test_add_c : (after { placed 0x0100 [0x81] with a := 0x3A, c := 0xC6 }).map (fun t => (t.a, packF t.flags)) =
    some (0x00, 0xB0) := by decide

/-- V-ADD-5. -/
theorem test_add_d : (after { placed 0x0100 [0x82] with a := 0x08, d := 0x08 }).map (fun t => (t.a, packF t.flags)) =
    some (0x10, 0x20) := by decide

/-- V-ADD-6. -/
theorem test_add_e : (after { placed 0x0100 [0x83] with a := 0x80, e := 0x80 }).map (fun t => (t.a, packF t.flags)) =
    some (0x00, 0x90) := by decide

/-- V-ADD-7. -/
theorem test_add_h : (after { placed 0x0100 [0x84] with a := 0xF0, h := 0x10 }).map (fun t => (t.a, packF t.flags)) =
    some (0x00, 0x90) := by decide

/-- V-ADD-8: all four flags are overwritten. -/
theorem test_add_l : (after { placed 0x0100 [0x85] with a := 0x12, l := 0x34, flags := unpackF 0xF0 }).map
    (fun t => (t.a, packF t.flags)) = some (0x46, 0x00) := by decide

/-- V-ADD-13: the operand is A itself. -/
theorem test_add_a : (after { placed 0x0100 [0x87] with a := 0x88 }).map (fun t => (t.a, packF t.flags)) =
    some (0x10, 0x30) := by decide

/-- V-JP-3. -/
theorem test_jp : after (placed 0x0100 [0xC3, 0x34, 0x12]) =
    some { placed 0x0100 [0xC3, 0x34, 0x12] with pc := 0x1234 } := by decide

/-- V-JP-9: the immediate is fetched across the wrap. -/
theorem test_jp_wraps : (after (placed 0xFFFE [0xC3, 0x34, 0x12])).map State.pc = some 0x1234 := by decide

/-- V-JP-1 and V-JP-2 (source example S4). -/
theorem test_jp_z : (after { placed 0x0100 [0xCA, 0x34, 0x12] with flags := unpackF 0x80 }).map State.pc = some 0x1234 ∧
    (after { placed 0x0100 [0xC2, 0x34, 0x12] with flags := unpackF 0x80 }).map State.pc = some 0x0103 := by decide

/-- V-JP-4 and V-JP-5. -/
theorem test_jp_nc : (after (placed 0x0100 [0xD2, 0x00, 0x80])).map State.pc = some 0x8000 ∧
    (after { placed 0x0100 [0xD2, 0x00, 0x80] with flags := unpackF 0x10 }).map State.pc = some 0x0103 := by decide

/-- V-JP-6 and V-JP-7. -/
theorem test_jp_c : (after { placed 0x0100 [0xDA, 0x00, 0x80] with flags := unpackF 0x10 }).map State.pc = some 0x8000 ∧
    (after { placed 0x0100 [0xDA, 0x00, 0x80] with flags := unpackF 0x80 }).map State.pc = some 0x0103 := by decide

/-- V-JP-10: not taken, pc wraps. -/
theorem test_jp_nz_wraps : (after { placed 0xFFFE [0xC2, 0x34] with flags := unpackF 0x80 }).map State.pc =
    some 0x0001 := by decide

/-- V-LD-1. -/
theorem test_ld_b_c : after { placed 0x0100 [0x41] with c := 0x5A } =
    some { placed 0x0100 [0x41] with c := 0x5A, b := 0x5A, pc := 0x0101 } := by decide

/-- V-LD-4: the immediate lies across the wrap. -/
theorem test_ld_imm_wraps : (after (placed 0xFFFF [0x3E, 0x77])).map (fun t => (t.a, t.pc)) = some (0x77, 0x0001) := by
  decide

/-- V-LD-5: the last video address, with no tile. -/
theorem test_ld_store_video : (after { placed 0x0100 [0x77] with h := 0x9F, l := 0xFF, a := 0x5A }).map
    (fun t => (vramByte t 0x1FFF, plainByte t 0x9FFF, t.tiles, t.pc)) = some (0x5A, 0x00, [], 0x0101) := by decide

/-- V-LD-7: the stored register is part of the address. -/
theorem test_ld_store_h : (after { placed 0x0100 [0x74] with h := 0x12, l := 0x34 }).map
    (fun t => (plainByte t 0x1234, t.pc)) = some (0x12, 0x0101) := by decide

/-- V-LD-8: the address is formed before H is written. -/
theorem test_ld_h_from_hl : (after { memWrite (placed 0x0100 [0x66]) 0xC000 0xC1 with h := 0xC0, l := 0x00 }).map
    (fun t => (t.h, t.l, t.pc)) = some (0xC1, 0x00, 0x0101) := by decide

/-- V-LD-10: a store into tile data updates the cache in the same step. -/
theorem test_ld_store_imm_tile : (after { placed 0x0100 [0x36, 0x80] with h := 0x80, l := 0x00 }).map
    (fun t => (vramByte t 0, tileColumns.map (tilePixel t 0 0), t.pc)) =
    some (0x80, [2, 0, 0, 0, 0, 0, 0, 0], 0x0102) := by decide

/-- V-STK-4: the two bytes straddle the wrap. -/
theorem test_push_de_wraps : (after { placed 0x0100 [0xD5] with d := 0xA1, e := 0xB2, sp := 0x0001 }).map
    (fun t => (plainByte t 0x0000, plainByte t 0xFFFF, t.sp, t.pc)) = some (0xA1, 0xB2, 0xFFFF, 0x0101) := by decide

/-- V-STK-5. -/
theorem test_push_af : (after { placed 0x0100 [0xF5] with a := 0x12, flags := unpackF 0x90, sp := 0xD000 }).map
    (fun t => (plainByte t 0xCFFF, plainByte t 0xCFFE, t.sp)) = some (0x12, 0x90, 0xCFFE) := by decide

/-- V-STK-6: the low nibble of the popped byte is lost. -/
theorem test_pop_af : (after { storeBytes (placed 0x0100 [0xF1]) 0xC000 [0xFF, 0x12] with sp := 0xC000 }).map
    (fun t => (t.a, packF t.flags, t.sp)) = some (0x12, 0xF0, 0xC002) := by decide

/-- V-STK-8: the high byte is the POP opcode itself. -/
theorem test_pop_bc_wraps : (after { memWrite (placed 0x0000 [0xC1]) 0xFFFF 0x34 with sp := 0xFFFF }).map
    (fun t => (t.c, t.b, t.sp, t.pc)) = some (0x34, 0xC1, 0x0001, 0x0001) := by decide

/-- V-STK-9: a push into tile data. -/
theorem test_push_into_tiles : (after { placed 0x0100 [0xC5] with b := 0xFF, c := 0x0F, sp := 0x8002 }).map
    (fun t => (vramByte t 1, vramByte t 0, t.sp, tileColumns.map (tilePixel t 0 0))) =
    some (0xFF, 0x0F, 0x8000, [1, 1, 1, 1, 3, 3, 3, 3]) := by decide

/-- V-CALL-1 (source example S5). -/
theorem test_call : (after { placed 0x0100 [0xCD, 0x00, 0x20] with sp := 0xD000 }).map
    (fun t => (plainByte t 0xCFFF, plainByte t 0xCFFE, t.sp, t.pc)) = some (0x01, 0x03, 0xCFFE, 0x2000) := by decide

/-- V-CALL-9, V-CALL-10, V-CALL-11: the push lands on the immediate. -/
theorem test_call_over_immediate :
    (after { placed 0x0100 [0xCD, 0x34, 0x12] with sp := 0x0103 }).map State.pc = some 0x0103 ∧
    (after { placed 0x0100 [0xCD, 0x34, 0x12] with sp := 0x0102 }).map State.pc = some 0x1201 ∧
    (after { placed 0x0100 [0xCD, 0x34, 0x12] with sp := 0x0104 }).map State.pc = some 0x0334 := by decide

/-- V-CALL-3 and V-CALL-4. -/
theorem test_call_z : after { placed 0x0100 [0xCC, 0x00, 0x20] with sp := 0xD000 } =
    some { placed 0x0100 [0xCC, 0x00, 0x20] with sp := 0xD000, pc := 0x0103 } ∧
    (after { placed 0x0100 [0xCC, 0x00, 0x20] with sp := 0xD000, flags := unpackF 0x80 }).map
      (fun t => (plainByte t 0xCFFF, plainByte t 0xCFFE, t.sp, t.pc)) = some (0x01, 0x03, 0xCFFE, 0x2000) := by decide

/-- V-CALL-5. -/
theorem test_call_nz : (after { placed 0x0100 [0xC4, 0x00, 0x20] with sp := 0xD000, flags := unpackF 0x80 }).map
    (fun t => (t.sp, t.pc)) = some (0xD000, 0x0103) := by decide

/-- V-CALL-6 and V-CALL-7. -/
theorem test_call_nc_c :
    (after { placed 0x0100 [0xD4, 0x00, 0x20] with sp := 0xD000 }).map (fun t => (t.sp, t.pc)) = some (0xCFFE, 0x2000) ∧
    (after { placed 0x0100 [0xDC, 0x00, 0x20] with sp := 0xD000 }).map (fun t => (t.sp, t.pc)) =
      some (0xD000, 0x0103) := by decide

/-- V-RET-1. -/
theorem test_ret : (after { storeBytes (placed 0x0100 [0xC9]) 0xFFFC [0x78, 0x56] with sp := 0xFFFC }).map
    (fun t => (t.pc, t.sp)) = some (0x5678, 0xFFFE) := by decide

/-- V-RET-2 and V-RET-3. -/
theorem test_ret_nz_z :
    (after { placed 0x0100 [0xC0] with sp := 0xCFFE, flags := unpackF 0x80 }).map (fun t => (t.pc, t.sp)) =
      some (0x0101, 0xCFFE) ∧
    (after { storeBytes (placed 0x0100 [0xC8]) 0xCFFE [0x03, 0x01] with sp := 0xCFFE, flags := unpackF 0x80 }).map
      (fun t => (t.pc, t.sp)) = some (0x0103, 0xD000) := by decide

/-- V-RET-4 and V-RET-5. -/
theorem test_ret_nc_c :
    (after { placed 0x0100 [0xD0] with sp := 0xCFFE, flags := unpackF 0x10 }).map (fun t => (t.pc, t.sp)) =
      some (0x0101, 0xCFFE) ∧
    (after { storeBytes (placed 0x0100 [0xD8]) 0xCFFE [0x03, 0x01] with sp := 0xCFFE, flags := unpackF 0x10 }).map
      (fun t => (t.pc, t.sp)) = some (0x0103, 0xD000) := by decide

/-- V-MISC-2. -/
theorem test_nop_wraps : (after (placed 0xFFFF [0x00])).map State.pc = some 0x0000 := by decide

/-- V-MISC-3: pc stays on the HALT byte. -/
theorem test_halt : after (placed 0x0100 [0x76]) = some { placed 0x0100 [0x76] with halted := true } := by decide

/-- V-ILL-8: a halted core does not decode. -/
theorem test_halted_step : after { placed 0x0100 [0xD3] with halted := true } =
    some { placed 0x0100 [0xD3] with halted := true } := by decide

/-- V-ILL-1 (source example S8), V-ILL-3, V-ILL-6, V-ADD-15. -/
theorem test_illegal :
    transact .step (placed 0x0100 [0xD3]) = (.condition (.illegalOpcode 0x0100 0xD3 false), placed 0x0100 [0xD3]) ∧
    step (placed 0x0100 [0xCB, 0x00]) = .fault (.illegalOpcode 0x0100 0x00 true) ∧
    step (placed 0xFFFF [0xCB, 0x11]) = .fault (.illegalOpcode 0xFFFF 0x11 true) ∧
    step (placed 0x0100 [0x86]) = .fault (.illegalOpcode 0x0100 0x86 false) := by
  refine ⟨?_, ?_, ?_, ?_⟩ <;> rfl

/-- The step fetches what was placed: LD L,d8 with d8 = 0, the lead-in followed by 0, and a 16-bit row. -/
theorem test_with_fetch_word :
    after (State.reset.withFetchWord 8 0x2E) = some { State.reset.withFetchWord 8 0x2E with l := 0x00, pc := 0x0002 } ∧
    step (State.reset.withFetchWord 8 0xCB) = .fault (.illegalOpcode 0x0000 0x00 true) ∧
    step (State.reset.withFetchWord 16 0xCB37) = .fault (.illegalOpcode 0x0000 0x37 true) := by
  refine ⟨by decide, ?_, ?_⟩ <;> rfl

/-! ### The bus, the video unit and the ports -/

/-- V-BUS-1 to V-BUS-4: the owner on both sides of both bounds. -/
theorem test_bus_bounds :
    plainByte (memWrite State.reset 0x7FFF 0x11) 0x7FFF = 0x11 ∧
    tileColumns.map (tilePixel (memWrite State.reset 0x8000 0x22) 0 0) = [0, 0, 2, 0, 0, 0, 2, 0] ∧
    plainByte (memWrite State.reset 0x9FFF 0x33) 0x9FFF = 0x00 ∧
    vramByte (memWrite State.reset 0x9FFF 0x33) 0x1FFF = 0x33 ∧
    plainByte (memWrite State.reset 0xA000 0x44) 0xA000 = 0x44 := by decide

/-- V-TILE-2, V-TILE-5: the odd byte is the high plane, and all four shades. -/
theorem test_tile_planes :
    tileColumns.map (tilePixel (memWrite State.reset 0x8001 0x80) 0 0) = [1, 0, 0, 0, 0, 0, 0, 0] ∧
    tileColumns.map (tilePixel (storeBytes State.reset 0x8002 [0xCA, 0xA6]) 0 1) = [3, 2, 1, 0, 2, 1, 3, 0] := by decide

/-- V-TILE-6, V-TILE-7, V-TILE-8: tile 1, tile 35 row 2, the last row of the last tile. -/
theorem test_tile_rows :
    tileColumns.map (tilePixel (storeBytes State.reset 0x8010 [0xA5, 0xF0]) 1 0) = [3, 1, 3, 1, 0, 2, 0, 2] ∧
    tileColumns.map (tilePixel (memWrite State.reset 0x8235 0x3C) 35 2) = [0, 0, 1, 1, 1, 1, 0, 0] ∧
    tileColumns.map (tilePixel (storeBytes State.reset 0x97FE [0xFF, 0x0F]) 383 7) = [2, 2, 2, 2, 3, 3, 3, 3] := by decide

/-- V-TILE-9: the first offsets past tile data have no decode. -/
theorem test_tile_data_ends : (storeBytes State.reset 0x9800 [0xFF, 0xFF]).tiles = [] := by decide

/-- V-TILE-12, V-TILE-14. -/
theorem test_ports_refuse : (tileReadPort 384 0 0 State.reset).1 = .refused .tileIndexOutOfRange ∧
    transact (.bulkLoad 0xFFFF [0x01, 0x02]) State.reset = (.refused .bulkLoadPastEnd, State.reset) := by decide

/-- V-TILE-15: one load may cross the dispatch boundary. -/
theorem test_bulk_load_crosses :
    tileColumns.map (tilePixel (transact (.bulkLoad 0x7FFF [0x11, 0x22, 0x33]) State.reset).2 0 0) =
    [0, 0, 3, 1, 0, 0, 3, 1] := by decide

/-- V-FLG-1, V-FLG-2, V-FLG-3, V-PAIR-2. -/
theorem test_flag_byte_and_pairs : packF ⟨true, false, true, true⟩ = 0xB0 ∧
    unpackF 0x5F = ⟨false, true, false, true⟩ ∧
    State.af { State.reset with a := 0x12, flags := unpackF 0x90 } = 0x1290 ∧
    hlAddr { State.reset with h := 0x97, l := 0xFF } = 0x97FF := by decide

/-- D7: the launch registers of the configuration are those of reset. -/
theorem test_reset_is_the_launch_state : State.reset = State.launch config.launchRegisters := by decide

/-- V-LD-9: the store of LD (HL),d8 lands on its own immediate, read before it. -/
theorem test_ld_store_on_its_immediate : (after { placed 0x0100 [0x36, 0x99] with h := 0x01, l := 0x01 }).map
    (fun t => (plainByte t 0x0101, t.pc)) = some (0x99, 0x0102) := by decide

/-! ### Witnesses: every obligation's hypotheses are met, each clause's at the ends of its range -/

/-- A state in which nothing is written has the invariant. -/
theorem inv_of_unwritten {s : State} (hp : s.plain = []) (hv : s.vram = []) (ht : s.tiles = []) : Inv s := by
  refine ⟨⟨by rw [hp]; rfl, by rw [hv]; rfl, by rw [ht]; rfl, by simp [hp], by simp [hv], by simp [ht]⟩, ?_, ?_⟩
  · intro t r c _ _ _
    unfold tilePixel vramByte
    rw [ht, hv]
    simp [Store.get, unwrittenByte, unwrittenShade, shade]
  · intro k _ _
    unfold plainByte
    rw [hp]
    simp [Store.get]

/-- A running state with a byte in each of plain storage, tile data and the rest of video memory. -/
def busy : State := memWrite (memWrite (memWrite State.reset 0x0000 0x80) 0x8001 0x80) 0x9FFF 0x33

theorem busy_inv : Inv busy := (((inv_of_unwritten rfl rfl rfl).memWrite _ _).memWrite _ _).memWrite _ _

theorem witness_DecodeOfEncodeIsTheInstruction :
    (Instr.illegal 0x01).wf = true ∧ (Instr.illegal 0xFF).wf = true ∧ Instr.prefixLeadIn.wf = true ∧
    (Instr.illegal 0x01 ≠ .prefixLeadIn) := by decide

theorem witness_DecodedBytesAreItsEncoding :
    wordsDecode [(0xFF, .illegal 0xFF)] = true ∧ decodeTableWord 16 0xCBFF = some (.illegalPrefixed 0xFF) := by decide

theorem witness_DecodeIsTotalWithTheListedFailures : (0xCA : Byte) ≠ 0xCB#8 ∧ (0xCC : Byte) ≠ 0xCB#8 ∧
    memRead (placed 0xFFFF [0xCB]) (placed 0xFFFF [0xCB]).pc = 0xCB#8 := by decide

theorem witness_IllegalSlotsReportIllegalOpcode :
    ((placed 0xFFFF [0xFF]).halted = false ∧ memRead (placed 0xFFFF [0xFF]) (placed 0xFFFF [0xFF]).pc = 0xFF ∧
      isIllegalSlot 0xFF = true) ∧
    ((placed 0xFFFF [0xCB, 0x00]).halted = false ∧
      memRead (placed 0xFFFF [0xCB, 0x00]) (placed 0xFFFF [0xCB, 0x00]).pc = 0xCB#8 ∧
      memRead (placed 0xFFFF [0xCB, 0x00]) (add16 (placed 0xFFFF [0xCB, 0x00]).pc 1#16) = 0x00) := by decide

theorem witness_PopAfLoadsAAndFlags :
    exec .pop_AF (memWrite State.reset 0x0000 0x40) =
      .next { memWrite State.reset 0x0000 0x40 with flags := unpackF 0x40, sp := 2, pc := 1 } ∧
    (memWrite State.reset 0x0000 0x40).flags.n = false ∧ (unpackF 0x40).n = true := by
  refine ⟨rfl, by decide, by decide⟩

theorem witness_StepRunsTheDecodedInstruction :
    (placed 0xFFFF [0xC3, 0x34, 0x12]).halted = false ∧
    memRead (placed 0xFFFF [0xC3, 0x34, 0x12]) 0xFFFF = 0xC3 ∧
    memRead (placed 0xFFFF [0xC3, 0x34, 0x12]) (add16 0xFFFF 1#16) = 0x34 ∧
    decode [0xC3, 0x34, 0x12] = .ok (.jp_a16, [0x34, 0x12]) := by
  refine ⟨rfl, by decide, by decide, rfl⟩

theorem witness_StepIsTheWholeTransition :
    { busy with halted := true }.halted = true ∧
    ((placed 0xFFFF [0xCB]).halted = false ∧ memRead (placed 0xFFFF [0xCB]) (placed 0xFFFF [0xCB]).pc = 0xCB#8) ∧
    ((placed 0 [0x01]).halted = false ∧ isIllegalSlot (memRead (placed 0 [0x01]) (placed 0 [0x01]).pc) = true) ∧
    ((placed 0 [0xF5]).halted = false ∧ memRead (placed 0 [0xF5]) (placed 0 [0xF5]).pc ≠ 0xCB#8 ∧
      isIllegalSlot (memRead (placed 0 [0xF5]) (placed 0 [0xF5]).pc) = false) := by decide

theorem witness_HaltedRunIsTheIdentity : { placed 0x0100 [0xD3] with halted := true }.halted = true := by decide

theorem witness_ConditionChangesNothingAndRepeats :
    transact .step (placed 0xFFFF [0xFF]) = (.condition (.illegalOpcode 0xFFFF 0xFF false), placed 0xFFFF [0xFF]) := rfl

theorem witness_OnlyIllegalOpcodeIsEverReported :
    step (placed 0 [0xCB, 0xFF]) = .fault (.illegalOpcode 0 0xFF true) ∧
    step (placed 0 [0x01]) = .fault (.illegalOpcode 0 0x01 false) := by
  refine ⟨?_, ?_⟩ <;> rfl

/-- One state for each clause of R124: doubling, a zero operand, 0 + 0, zero with carry and no half-carry, 0x08 + 0x08,
0x80 + 0x80, and a zero result without carry. -/
theorem witness_AddCornerCases :
    { State.reset with a := 0x80 }.reg .A = 0x80 ∧ { State.reset with b := 0x00, a := 0xFF }.reg .B = 0x00#8 ∧
    (State.reset.a = 0x00#8 ∧ State.reset.reg .C = 0x00#8) ∧
    (let t := after { placed 0 [0x84] with a := 0xF0, h := 0x10 }
     t.map (fun t => (t.flags.z, t.flags.c, t.flags.h)) = some (true, true, false)) ∧
    ({ State.reset with a := 0x08, d := 0x08 }.a = 0x08#8 ∧ { State.reset with a := 0x08, d := 0x08 }.reg .D = 0x08#8) ∧
    ({ State.reset with a := 0x80, l := 0x80 }.a = 0x80#8 ∧ { State.reset with a := 0x80, l := 0x80 }.reg .L = 0x80#8) ∧
    ((after (placed 0 [0x80])).map (fun t => (t.a, t.flags.c)) = some (0x00, false)) := by decide

/-- The stack pointer in the three positions of R163 and beside them, with pc at the end of the address space. -/
theorem witness_CallOverItsOwnImmediate :
    { State.reset with pc := 0xFFFD, sp := 0x0000 }.sp = add16 0xFFFD 3#16 ∧
    { State.reset with pc := 0xFFFD, sp := 0xFFFF }.sp = add16 0xFFFD 2#16 ∧
    { State.reset with pc := 0xFFFD, sp := 0x0001 }.sp = add16 0xFFFD 4#16 ∧
    ((0xFFFE : Word) ≠ add16 0xFFFD 2#16 ∧ (0xFFFE : Word) ≠ add16 0xFFFD 3#16 ∧ (0xFFFE : Word) ≠ add16 0xFFFD 4#16) ∧
    ((0x0002 : Word) ≠ add16 0xFFFD 2#16 ∧ (0x0002 : Word) ≠ add16 0xFFFD 3#16 ∧ (0x0002 : Word) ≠ add16 0xFFFD 4#16) := by
  decide

theorem witness_EmptyMemoryRunsNops : State.reset.halted = false ∧ ∀ y, memRead State.reset y = 0x00#8 := by
  refine ⟨rfl, fun y => ?_⟩
  unfold memRead
  split <;> rfl

theorem witness_WokenCoreHaltsAgain :
    (placed 0xFFFF [0x76]).halted = false ∧ memRead (placed 0xFFFF [0x76]) (placed 0xFFFF [0x76]).pc = 0x76#8 := by decide

/-- ADD changes the flags; POP AF changes them and sets the subtract flag. -/
theorem witness_FlagsChangeOnlyByAddAndPopAf :
    step (placed 0 [0x80]) = .next { placed 0 [0x80] with flags := unpackF 0x80, pc := 1 } ∧
    unpackF 0x80 ≠ (placed 0 [0x80]).flags ∧
    ((after { placed 0 [0xF1, 0x40] with sp := 1 }).map (fun t => t.flags.n) = some true ∧
      { placed 0 [0xF1, 0x40] with sp := 1 }.flags.n = false) := by
  refine ⟨rfl, by decide, by decide⟩

theorem witness_OnlyNamedRegistersChange :
    exec .pop_BC busy = .next { busy with c := 0x80, sp := 2, pc := 1 } ∧ Reg8.D ∉ formWrites (Instr.form .pop_BC) := by
  refine ⟨rfl, by decide⟩

/-- An instruction, a halted step and a condition. -/
theorem witness_NextPcTable :
    exec .nop busy = .next { busy with pc := 1 } ∧
    step { busy with halted := true } = .next { busy with halted := true } ∧
    transact .step (placed 0 [0xD3]) = (.condition (.illegalOpcode 0 0xD3 false), placed 0 [0xD3]) := by
  refine ⟨rfl, rfl, rfl⟩

theorem witness_StackPointerMovesByTwo :
    exec .ret busy = .next { busy with pc := 0x0080, sp := 2 } ∧
    (after { placed 0 [0xC5] with sp := 1 }).map State.sp = some 0xFFFF ∧
    (after { placed 0 [0xC1] with sp := 0xFFFF }).map State.sp = some 1 := by
  refine ⟨rfl, by decide, by decide⟩

/-- A step of HALT halts; a wake and a power-on reset make a halted core run. -/
theorem witness_OnlyHaltHaltsAndOnlyWakeWakes :
    ((placed 0 [0x76]).halted = false ∧ (transact .step (placed 0 [0x76])).2.halted = true) ∧
    ({ busy with halted := true }.halted = true ∧ (transact .wake { busy with halted := true }).2.halted = false ∧
      (transact .powerOnReset { busy with halted := true }).2.halted = false) := by decide

/-- A storing form with an address outside, and a form that stores nothing. -/
theorem witness_OnlyNamedAddressesChange :
    exec .push_BC State.reset = .next { State.reset with sp := 0xFFFE, pc := 1 } ∧
    (0xFFFD : Word) ∉ formStores (Instr.form .push_BC) State.reset ∧
    (0x0000 : Word) ∉ formStores (Instr.form .push_BC) State.reset ∧
    exec .nop busy = .next { busy with pc := 1 } ∧ formStores (Instr.form .nop) busy = [] := by
  refine ⟨rfl, by decide, by decide, rfl, rfl⟩

/-- Both owners at both bounds. -/
theorem witness_OwnerByRange : owner 0x8000 = .VIDEO ∧ owner 0x9FFF = .VIDEO ∧ owner 0x7FFF = .PLAIN ∧
    owner 0xA000 = .PLAIN ∧ owner 0x0000 = .PLAIN ∧ owner 0xFFFF = .PLAIN := by decide

theorem witness_WriteChangesOneByte : owner 0x7FFF = .PLAIN ∧ (0x8000 : Nat) ≠ (0x7FFF : Word).toNat ∧
    owner 0x9FFF = .VIDEO ∧ (0x1FFE : Nat) ≠ videoOffset 0x9FFF ∧ (0x8000 : Word) ≠ 0x7FFF := by decide

/-- The first and the last pixel, each addressed by a write to its row, and writes just outside tile data. -/
theorem witness_WriteRecomputesOneTileRow :
    ((0 : Nat) < 384 ∧ (0 : Nat) < 8 ∧ (383 : Nat) < 384 ∧ (7 : Nat) < 8) ∧
    (0x8000 ≤ (0x8000 : Word).toNat ∧ (0x8000 : Word).toNat < 0x9800 ∧ 0 = ((0x8000 : Word).toNat - 0x8000) >>> 4 ∧
      0 = (((0x8000 : Word).toNat - 0x8000) >>> 1) &&& 7) ∧
    (0x8000 ≤ (0x97FF : Word).toNat ∧ (0x97FF : Word).toNat < 0x9800 ∧ 383 = ((0x97FF : Word).toNat - 0x8000) >>> 4 ∧
      7 = (((0x97FF : Word).toNat - 0x8000) >>> 1) &&& 7) ∧
    ¬(0x8000 ≤ (0x7FFF : Word).toNat) ∧ ¬((0x9800 : Word).toNat < 0x9800) := by decide

theorem witness_WriteIsIdempotent : StorageWf busy := busy_inv.storage

/-- A bus write at pc, and LD (HL),A with HL at the next instruction. -/
theorem witness_StoresAreFetchedAtOnce :
    busy.halted = false ∧ (0x76 : Byte) ≠ 0xCB#8 ∧
    { busy with h := 0xFF, l := 0xFF, pc := 0xFFFE, a := 0x76 }.halted = false ∧
    hlAddr { busy with h := 0xFF, l := 0xFF, pc := 0xFFFE, a := 0x76 } = add16 0xFFFE 1#16 ∧
    { busy with h := 0xFF, l := 0xFF, pc := 0xFFFE, a := 0x76 }.reg .A ≠ 0xCB#8 := by decide

theorem witness_WakeOnlyClearsHalted : busy.halted = false := by decide

theorem witness_TileReadAnswersInRange :
    ((383 : Nat) ≤ 383 ∧ (7 : Nat) ≤ 7) ∧ ¬((384 : Nat) ≤ 383) ∧ ¬((8 : Nat) ≤ 7) := by decide

/-- A load that ends on the last byte with an address before it, and one that is a byte too long. -/
theorem witness_BulkLoadWritesInOrder :
    (0xFFFE : Word).toNat + ([1, 2] : List Byte).length ≤ 0x10000 ∧ (0xFFFD : Word).toNat < (0xFFFE : Word).toNat ∧
    (1 : Nat) < ([1, 2] : List Byte).length ∧ 0x10000 < (0xFFFF : Word).toNat + ([1, 2] : List Byte).length := by decide

theorem witness_BulkLoadKeepsCoherence : TilesCoherent busy := busy_inv.tiles

/-- A step from a state with the invariant that stores into tile data. -/
theorem witness_StepKeepsInvariant :
    Inv { memWrite busy 0x9FFF 0x70 with h := 0x80, l := 0x00, b := 0xFF, pc := 0x9FFF } ∧
    (after { memWrite busy 0x9FFF 0x70 with h := 0x80, l := 0x00, b := 0xFF, pc := 0x9FFF }).map
      (fun t => (vramByte t 0, tilePixel t 0 0 0, t.pc)) = some (0xFF, 3, 0xA000) :=
  ⟨(busy_inv.memWrite _ _).of_storages rfl rfl rfl, by decide⟩

theorem witness_TileCacheStaysCoherent : TilesCoherent busy ∧ (after busy).isSome = true := ⟨busy_inv.tiles, by decide⟩

theorem witness_SessionsKeepInvariant : Inv busy := busy_inv

theorem witness_ShadowSlotsKeepResetValue :
    ((0x8000 : Nat) ≤ 0x8000 ∧ (0x8000 : Nat) ≤ 0x9FFF) ∧ ((0x8000 : Nat) ≤ 0x9FFF ∧ (0x9FFF : Nat) ≤ 0x9FFF) := by decide

end Sys2Proof.Machine
end

section
/-! PROOFS. The statements of 10_state.md on pair views (R22), the next pc (R29) and the reset state (R40). -/

namespace Sys2Proof.Machine

/-! ### Pairs (R22) -/

@[simp] theorem reg_pairHi_setPair (s : State) (rr : Pair) (v : Word) :
    (s.setPair rr v).reg (pairHi rr) = hiByte v := by
  rw [reg_setPair, if_neg (pairHi_ne_pairLo rr), if_pos rfl]

@[simp] theorem reg_pairLo_setPair (s : State) (rr : Pair) (v : Word) :
    (s.setPair rr v).reg (pairLo rr) = loByte v := by
  rw [reg_setPair, if_pos rfl]

theorem otherRegsSame_setPair (s : State) (rr : Pair) (v : Word) :
    OtherRegsSame [pairHi rr, pairLo rr] s (s.setPair rr v) := by
  refine ⟨fun q hq => ?_, setPair_halted s rr v⟩
  simp only [List.mem_cons, List.not_mem_nil, or_false, not_or] at hq
  rw [reg_setPair, if_neg hq.2, if_neg hq.1]

theorem memorySame_setPair (s : State) (rr : Pair) (v : Word) : MemorySame s (s.setPair rr v) :=
  ⟨memRead_setPair s rr v, setPair_plain s rr v, setPair_vram s rr v, setPair_tiles s rr v⟩

@[simp] theorem setPair_pair (s : State) (rr : Pair) : s.setPair rr (s.pair rr) = s := by
  simp only [State.setPair, State.pair, hiByte_mkWord, loByte_mkWord, State.setReg_reg]

/-- Settles O38: a pair is composed of its two registers by `mkWord`, and `reg_setPair` says what a write of it changes. -/
theorem pairsAreViews : Obligations.PairsAreViews := by
  intro rr s v
  exact ⟨mkWord_toNat _ _, pair_setPair s rr v, reg_pairHi_setPair s rr v, reg_pairLo_setPair s rr v,
    otherRegsSame_setPair s rr v, setPair_flags s rr v, setPair_pc s rr v, setPair_sp s rr v,
    memorySame_setPair s rr v, setPair_pair s rr⟩

/-! ### The next pc (R29) -/

@[simp] theorem setAf_pc (s : State) (v : Word) : (s.setAf v).pc = s.pc := by simp [State.setAf]

@[simp] theorem popState_pc (s : State) : (popState s).pc = s.pc := (rfl)

/-- The immediate of a taken CALL is the one memory holds after the push, at the pc of the CALL (R161). -/
theorem callImm_pc (s : State) : (callImm s).pc = immediateIn (callImm s) s := by
  have hread : imm16 (push16 s (returnAddr s)) = immediateIn (push16 s (returnAddr s)) s := by
    rw [imm16_eq_immediateIn, immediateIn, immediateIn, push16_pc]
  exact hread

theorem jumpImm_pc (s : State) : (jumpImm s).pc = immediateIn s s := imm16_eq_immediateIn s

theorem retAlways_pc (s : State) : (retAlways s).pc = stackTop s := popValue_eq_stackTop s

/-- The state a form commits has the pc of the form's row. -/
theorem formNext_pc {f : Form} {s t : State} (h : formNext f s = some t) : t.pc = formPc f s t := by
  cases f <;> simp only [formNext, Option.some.injEq, reduceCtorEq] at h <;> subst h <;> simp only [formPc]
  case addReg r => simp [addReg]
  case ldRegReg d r => simp [ldRegReg]
  case ldRegImm d => simp [ldRegImm]
  case ldRegHl d => simp [ldRegHl]
  case ldHlReg r => simp [ldHlReg]
  case ldHlImm => simp [ldHlImm]
  case jp => exact jumpImm_pc s
  case jpCond cc => unfold jumpCond; split; exacts [jumpImm_pc s, rfl]
  case pushPair rr => simp [pushPair]
  case pushAf => simp [pushAf]
  case popPair rr => simp [popPair]
  case popAf => simp [popAf]
  case call => exact callImm_pc s
  case callCond cc => unfold callCond; split; exacts [callImm_pc s, rfl]
  case ret => exact retAlways_pc s
  case retCond cc => unfold retCond; split; exacts [retAlways_pc s, rfl]
  case nop => simp [nopStep]
  case halt => simp [haltStep]

/-- A step transaction that reports a condition is a step that faults, and leaves the state as it was (R181). -/
theorem transact_step_condition {s t : State} {f : Fault} (h : transact .step s = (.condition f, t)) :
    step s = .fault f ∧ t = s := by
  simp only [transact, stepPort] at h
  cases hs : step s with
  | next u => simp [hs] at h
  | fault g =>
    simp only [hs, Prod.mk.injEq, Output.condition.injEq] at h
    obtain ⟨rfl, rfl⟩ := h
    exact ⟨rfl, rfl⟩
  | refused r => simp [hs] at h

/-- Settles O42: the table by form, a halted step being the identity and a condition keeping the state. -/
theorem nextPcTable : Obligations.NextPcTable := by
  refine ⟨fun i s t h => formNext_pc (exec_next_iff.1 h), fun s t hhalted h => ?_, fun s t f h => ?_⟩
  · rw [step_halted hhalted, Host.Outcome.next.injEq] at h
    rw [h]
  · rw [(transact_step_condition h).2]

/-! ### The reset state (R40) -/

theorem reset_reg (r : Reg8) : State.reset.reg r = 0x00#8 := by cases r <;> rfl

/-- Settles O51: the fields are the table of R40, and an unlisted index of an empty storage reads zero. -/
theorem resetIsAllZero : Obligations.ResetIsAllZero :=
  ⟨reset_reg, rfl, rfl, rfl, rfl, fun _ => rfl, fun _ => rfl, fun _ _ _ => rfl, fun _ => rfl⟩

end Sys2Proof.Machine
end

section
/-! PROOFS. The statements of 20_memory.md on bus dispatch (R50 to R56), writes (R57 to R64), TileRead (R65) and bulk
loads (R76). -/

namespace Sys2Proof.Machine

/-! ### The owner of an address (R50, R53, R54, R56) -/

theorem owner_video_or_plain (x : Word) : owner x = .VIDEO ∨ owner x = .PLAIN := by
  cases owner x
  · exact .inl rfl
  · exact .inr rfl

theorem memRead_video {x : Word} (h : owner x = .VIDEO) (s : State) : memRead s x = vramByte s (x.toNat - 0x8000) := by
  rw [memRead, h, ← videoOffset_eq]

theorem memRead_plain {x : Word} (h : owner x = .PLAIN) (s : State) : memRead s x = plainByte s x.toNat := by
  rw [memRead, h]

/-- Settles O46: the range decides the owner, and a read goes to the storage of the owner. -/
theorem ownerByRange : Obligations.OwnerByRange := by
  refine ⟨owner_video_iff, owner_video_or_plain, fun x h => ⟨videoOffset_eq x, ?_⟩, by decide, by decide, by decide,
    by decide, by decide, by decide, fun s x h => memRead_video h s, fun s x h => memRead_plain h s⟩
  exact Nat.le_of_lt_succ (videoOffset_lt h)

/-! ### One write (R57 to R59) -/

/-- The registers, flags, pc, sp and run state of `t` are those of `s`; only memory and the tile cache may differ. -/
structure RegistersSame (s t : State) : Prop where
  regs : OtherRegsSame [] s t
  flags : t.flags = s.flags
  pc : t.pc = s.pc
  sp : t.sp = s.sp

theorem RegistersSame.refl (s : State) : RegistersSame s s :=
  ⟨⟨fun _ _ => rfl, rfl⟩, rfl, rfl, rfl⟩

theorem RegistersSame.memWrite {s t : State} (h : RegistersSame s t) (x : Word) (v : Byte) :
    RegistersSame s (memWrite t x v) := by
  obtain ⟨⟨hreg, hhalted⟩, hflags, hpc, hsp⟩ := h
  exact ⟨⟨fun q hq => (memWrite_reg t x v q).trans (hreg q hq), (memWrite_halted t x v).trans hhalted⟩,
    (memWrite_flags t x v).trans hflags, (memWrite_pc t x v).trans hpc, (memWrite_sp t x v).trans hsp⟩

theorem plain_write_storage {s : State} {x : Word} (v : Byte) (hx : owner x = .PLAIN) :
    plainByte (memWrite s x v) x.toNat = v ∧ (memWrite s x v).vram = s.vram ∧ (memWrite s x v).tiles = s.tiles ∧
      ∀ k, k ≠ x.toNat → plainByte (memWrite s x v) k = plainByte s k := by
  rw [memWrite_plain_eq hx]
  refine ⟨?_, rfl, rfl, fun k hk => ?_⟩
  · rw [plainByte_plainWrite, if_pos rfl]
  · rw [plainByte_plainWrite, if_neg hk]

theorem video_write_storage {s : State} {x : Word} (v : Byte) (hx : owner x = .VIDEO) :
    vramByte (memWrite s x v) (x.toNat - 0x8000) = v ∧ (memWrite s x v).plain = s.plain ∧
      ∀ k, k ≠ videoOffset x → vramByte (memWrite s x v) k = vramByte s k := by
  rw [memWrite_video_eq hx, ← videoOffset_eq]
  refine ⟨?_, videoWrite_plain s _ v, fun k hk => ?_⟩
  · rw [vramByte_videoWrite, if_pos rfl]
  · rw [vramByte_videoWrite, if_neg hk]

/-- Settles O47: reads after a write at the level of addresses, then of each owner's storage, then the frame. -/
theorem writeChangesOneByte : Obligations.WriteChangesOneByte := by
  intro s x v
  obtain ⟨hregs, hflags, hpc, hsp⟩ := (RegistersSame.refl s).memWrite x v
  exact ⟨memRead_memWrite_same s x v, fun y hy => memRead_memWrite_other s v hy, plain_write_storage v,
    video_write_storage v, hregs, hflags, hpc, hsp⟩

/-! ### The tile cache after a write (R60 to R64) -/

/-- `offset >> 4`, the tile of R61. -/
theorem tileOf_eq_shiftRight (o : Nat) : tileOf o = o >>> 4 := (Nat.shiftRight_eq_div_pow o 4).symm

/-- `offset[3:1]`, the row of R61. -/
theorem rowOf_eq_and (o : Nat) : rowOf o = (o >>> 1) &&& 7 := by
  have hmask : (o >>> 1) &&& (2 ^ 3 - 1) = (o >>> 1) % 2 ^ 3 := Nat.and_two_pow_sub_one_eq_mod _ 3
  rw [Nat.shiftRight_eq_div_pow] at hmask ⊢
  exact hmask.symm

/-- `offset & 0xFFFE`, the alignment of R60: the mask clears bit 0 of a 16-bit number and keeps the rest. -/
theorem rowBase_eq_and {o : Nat} (ho : o < 0x10000) : rowBase o = o &&& 0xFFFE := by
  have hlow : (o &&& 0xFFFE) % 2 = 0 := by
    exact (Nat.and_mod_two_pow (n := 1)).trans (Nat.and_zero _)
  have hrest : (o &&& 0xFFFE) / 2 = o / 2 := by
    rw [Nat.and_div_two]
    exact (Nat.and_two_pow_sub_one_eq_mod (o / 2) 15).trans (Nat.mod_eq_of_lt (by omega))
  unfold rowBase
  omega

/-- The address of a write lies in tile data and addresses row `r` of tile `t` (R55, R61). -/
def WritesTileRow (x : Word) (t r : Nat) : Prop :=
  0x8000 ≤ x.toNat ∧ x.toNat < 0x9800 ∧ t = (x.toNat - 0x8000) >>> 4 ∧ r = ((x.toNat - 0x8000) >>> 1) &&& 7

theorem writesTileRow_iff {x : Word} {t r : Nat} :
    WritesTileRow x t r ↔
      owner x = .VIDEO ∧ videoOffset x < 0x1800 ∧ t = tileOf (videoOffset x) ∧ r = rowOf (videoOffset x) := by
  rw [WritesTileRow, owner_video_iff, tileOf_eq_shiftRight, rowOf_eq_and, videoOffset_eq]
  constructor
  · rintro ⟨hlo, hhi, ht, hr⟩
    exact ⟨⟨hlo, by omega⟩, by omega, ht, hr⟩
  · rintro ⟨⟨hlo, -⟩, hoff, ht, hr⟩
    exact ⟨hlo, by omega, ht, hr⟩

/-- A pixel of the addressed row is the shade of the two bytes of the row as they stand after the write. -/
theorem tilePixel_memWrite_of_row {x : Word} {t r c : Nat} (h : WritesTileRow x t r) (s : State) (v : Byte)
    (hr : r < 8) (hc : c < 8) :
    tilePixel (memWrite s x v) t r c =
      planeShade (vramByte (memWrite s x v) (((x.toNat - 0x8000) &&& 0xFFFE) + 1))
        (vramByte (memWrite s x v) ((x.toNat - 0x8000) &&& 0xFFFE)) c := by
  obtain ⟨hx, hrow⟩ := writesTileRow_iff.1 h
  have hoff : videoOffset x < 0x10000 := (videoOffset_lt hx).trans (by decide)
  rw [memWrite_video_eq hx, tilePixel_videoWrite s _ v hr hc, if_pos hrow, rowBase_eq_and hoff, videoOffset_eq]

/-- A pixel outside the addressed row is as before. -/
theorem tilePixel_memWrite_of_not_row {x : Word} {t r c : Nat} (h : ¬WritesTileRow x t r) (s : State) (v : Byte)
    (hr : r < 8) (hc : c < 8) : tilePixel (memWrite s x v) t r c = tilePixel s t r c := by
  rcases owner_video_or_plain x with hx | hx
  · rw [memWrite_video_eq hx, tilePixel_videoWrite s _ v hr hc, if_neg fun hrow => h (writesTileRow_iff.2 ⟨hx, hrow⟩)]
  · rw [memWrite_plain_eq hx]
    rfl

/-- Settles O48: a pixel lies in the addressed row or not, and in the row its shade is R62's table of the two plane bits. -/
theorem writeRecomputesOneTileRow : Obligations.WriteRecomputesOneTileRow := by
  intro s x v t r c _ hr hc
  split
  case isTrue h =>
    rw [tilePixel_memWrite_of_row h s v hr hc, planeShade]
    generalize (vramByte _ _).getLsbD (7 - c) = high
    generalize (vramByte _ _).getLsbD (7 - c) = low
    cases high <;> cases low <;> rfl
  case isFalse h => exact tilePixel_memWrite_of_not_row h s v hr hc

/-! ### TileRead (R65) -/

theorem tileInRange_iff (t r c : Nat) : tileInRange t r c = true ↔ t ≤ 383 ∧ r ≤ 7 ∧ c ≤ 7 := by
  rw [tileInRange, decide_eq_true_iff, config_tileCount, config_tileRows, config_tileCols]
  omega

/-- Settles O53: the port answers exactly when the indices are in range. -/
theorem tileReadAnswersInRange : Obligations.TileReadAnswersInRange := by
  intro t r c s
  rw [← tileInRange_iff]
  exact ⟨fun h => if_pos h, fun h => if_neg h⟩

/-! ### Bulk load (R76) -/

theorem add16_one_add16 (x : Word) (k : Nat) :
    add16 (add16 x 1#16) (BitVec.ofNat 16 k) = add16 x (BitVec.ofNat 16 (k + 1)) := by
  rw [add16, add16, BitVec.add_assoc, BitVec.add_comm 1#16, ← BitVec.ofNat_add]

theorem ne_add16_of_lt (x : Word) {k : Nat} (h0 : 0 < k) (hk : k < 0x10000) : x ≠ add16 x (BitVec.ofNat 16 k) := by
  bv_omega

/-- What every bus write keeps, storing bytes keeps. -/
theorem storeBytes_keeps {P : State → Prop} (write : ∀ t a v, P t → P (memWrite t a v)) :
    ∀ (bytes : List Byte) (s : State) (x : Word), P s → P (storeBytes s x bytes)
  | [], _, _, h => h
  | v :: rest, s, x, h => storeBytes_keeps write rest _ _ (write s x v h)

/-- Storing bytes changes no address but theirs. -/
theorem memRead_storeBytes_other : ∀ (bytes : List Byte) (s : State) (x y : Word),
    (∀ k, k < bytes.length → y ≠ add16 x (BitVec.ofNat 16 k)) → memRead (storeBytes s x bytes) y = memRead s y
  | [], _, _, _, _ => rfl
  | v :: rest, s, x, y, h => by
    have hhead : y ≠ x := by simpa using h 0 (Nat.succ_pos _)
    have htail : ∀ k, k < rest.length → y ≠ add16 (add16 x 1#16) (BitVec.ofNat 16 k) := fun k hk => by
      rw [add16_one_add16]
      exact h (k + 1) (Nat.succ_lt_succ hk)
    rw [storeBytes, memRead_storeBytes_other rest _ _ y htail, memRead_memWrite_other s v hhead]

/-- Each address holds its byte once all are stored: no later byte of at most 0x10000 comes round to the address. -/
theorem memRead_storeBytes : ∀ (bytes : List Byte) (s : State) (x : Word) (k : Nat) (hk : k < bytes.length),
    bytes.length ≤ 0x10000 → memRead (storeBytes s x bytes) (add16 x (BitVec.ofNat 16 k)) = bytes[k]
  | v :: rest, s, x, 0, _, hlen => by
    rw [List.length_cons] at hlen
    have hlater : ∀ k, k < rest.length → x ≠ add16 (add16 x 1#16) (BitVec.ofNat 16 k) := fun k hk => by
      rw [add16_one_add16]
      exact ne_add16_of_lt x (Nat.succ_pos k) (by omega)
    have hx : add16 x (BitVec.ofNat 16 0) = x := BitVec.add_zero x
    rw [hx, storeBytes, memRead_storeBytes_other rest _ _ x hlater, memRead_memWrite_same, List.getElem_cons_zero]
  | v :: rest, s, x, k + 1, hk, hlen => by
    rw [List.length_cons] at hk hlen
    rw [← add16_one_add16, storeBytes, List.getElem_cons_succ]
    exact memRead_storeBytes rest _ _ k (by omega) (by omega)

theorem bulkLoadFits_iff (start : Word) (bytes : List Byte) :
    bulkLoadFits start bytes = true ↔ start.toNat + bytes.length ≤ 0x10000 := by
  rw [bulkLoadFits, decide_eq_true_iff, config_plainSize]

theorem transact_bulkLoad_of_fits {start : Word} {bytes : List Byte} (h : start.toNat + bytes.length ≤ 0x10000)
    (s : State) : transact (.bulkLoad start bytes) s = (.ok, storeBytes s start bytes) :=
  if_pos ((bulkLoadFits_iff start bytes).2 h)

theorem transact_bulkLoad_of_past_end {start : Word} {bytes : List Byte} (h : 0x10000 < start.toNat + bytes.length)
    (s : State) : transact (.bulkLoad start bytes) s = (.refused .bulkLoadPastEnd, s) :=
  if_neg fun hfits => absurd ((bulkLoadFits_iff start bytes).1 hfits) (Nat.not_le_of_lt h)

theorem add16_ofNat (x : Word) (k : Nat) : add16 x (BitVec.ofNat 16 k) = BitVec.ofNat 16 (x.toNat + k) := by
  rw [BitVec.ofNat_add, BitVec.ofNat_toNat, BitVec.setWidth_eq]

/-- In a load that fits, the addresses do not wrap, so those below `start` and from its end on are untouched. -/
theorem memRead_storeBytes_outside {start y : Word} {bytes : List Byte} (hfits : start.toNat + bytes.length ≤ 0x10000)
    (hy : y.toNat < start.toNat ∨ start.toNat + bytes.length ≤ y.toNat) (s : State) :
    memRead (storeBytes s start bytes) y = memRead s y := by
  refine memRead_storeBytes_other bytes s start y fun k hk heq => ?_
  have haddr : y.toNat = start.toNat + k := by
    rw [heq, add16_ofNat, BitVec.toNat_ofNat, Nat.mod_eq_of_lt (by omega)]
  omega

/-- Settles O54: the bytes by induction over the list, the frame and coherence because every bus write keeps them. -/
theorem bulkLoadWritesInOrder : Obligations.BulkLoadWritesInOrder := by
  intro start bytes s
  refine ⟨fun hfits => ?_, fun hpast => transact_bulkLoad_of_past_end hpast s, ?_⟩
  · obtain ⟨hregs, hflags, hpc, hsp⟩ : RegistersSame s (storeBytes s start bytes) :=
      storeBytes_keeps (fun _ a v h => h.memWrite a v) bytes s start (RegistersSame.refl s)
    refine ⟨storeBytes s start bytes, transact_bulkLoad_of_fits hfits s, fun k hk => ?_,
      fun y hy => memRead_storeBytes_outside hfits hy s, hregs, hflags, hpc, hsp, ?_⟩
    · rw [← add16_ofNat]
      exact memRead_storeBytes bytes s start k hk (by omega)
    · exact storeBytes_keeps (fun _ a v h => h.memWrite a v) bytes s start
  · exact transact_bulkLoad_of_fits (bytes := []) start.isLt.le s

end Sys2Proof.Machine
end

section
/-! PROOFS. The statements of 30_encoding.md on the illegal slots and the lead-in: the failures of `decode` (R103) and
the condition they raise (R100, R101, R174). -/

namespace Sys2Proof

/-! ### The failures of the primary table (R100, R103) -/

/-- The lead-in is no illegal slot of the primary table. -/
theorem isIllegalSlot_prefixByte : isIllegalSlot config.prefixByte = false := by decide

theorem ne_prefixByte_of_isIllegalSlot {b : Byte} (h : isIllegalSlot b = true) : b ≠ config.prefixByte := by
  rintro rfl
  exact Bool.false_ne_true (isIllegalSlot_prefixByte.symm.trans h)

theorem isDecodeFailure_decodePrimary_iff (b : Byte) :
    (decodePrimary b).isDecodeFailure = true ↔ isIllegalSlot b = true ∨ b = config.prefixByte := by
  rcases decodePrimary_cases b with ⟨hb, hdec⟩ | ⟨hslot, hdec⟩ | ⟨hslot, hb, hdec, -⟩
  · exact ⟨fun _ => .inr hb, fun _ => hdec ▸ rfl⟩
  · exact ⟨fun _ => .inl hslot, fun _ => hdec ▸ rfl⟩
  · simp [hslot, hb, hdec]

theorem decodePrimary_eq_illegal_iff (b : Byte) : decodePrimary b = .illegal b ↔ isIllegalSlot b = true := by
  rcases decodePrimary_cases b with ⟨rfl, hdec⟩ | ⟨hslot, hdec⟩ | ⟨hslot, -, hdec, -⟩
  · simp [hdec, isIllegalSlot_prefixByte]
  · simp [hdec, hslot]
  · simp only [hslot, Bool.false_eq_true, iff_false]
    intro hillegal
    rw [hillegal] at hdec
    contradiction

/-- The ranges of R100 hold 152 bytes. -/
theorem length_filter_isIllegalSlot :
    ((List.range 256).filter fun n => isIllegalSlot (BitVec.ofNat 8 n)).length = 152 := by
  decide +kernel

/-- The table holds 103 instructions: the 104 bytes of R92 without the lead-in. -/
theorem length_filter_not_isDecodeFailure :
    ((List.range 256).filter fun n => !(decodeByte (BitVec.ofNat 8 n) false).isDecodeFailure).length = 103 := by
  decide +kernel

end Sys2Proof

namespace Sys2Proof.Machine

/-- Settles O3: the two counts, then byte by byte by `decodePrimary_cases`, then the fetch at a lead-in. -/
theorem decodeIsTotalWithTheListedFailures : Obligations.DecodeIsTotalWithTheListedFailures := by
  refine ⟨length_filter_not_isDecodeFailure, length_filter_isIllegalSlot, decodePrimary_eq_illegal_iff,
    fun b hb => ?_, fun _ => rfl, fun s h => fetchInstr_prefixed h⟩
  exact (isDecodeFailure_decodePrimary_iff b).trans (or_iff_left hb)

/-! ### The condition of an illegal slot (R100, R101, R174, R183) -/

theorem exec_illegal (b : Byte) (s : State) : exec (.illegal b) s = .fault (.illegalOpcode s.pc b false) :=
  exec_by_form (.illegal b) s

theorem exec_illegalPrefixed (b : Byte) (s : State) :
    exec (.illegalPrefixed b) s = .fault (.illegalOpcode s.pc b true) :=
  exec_by_form (.illegalPrefixed b) s

theorem exec_prefixLeadIn (s : State) :
    exec .prefixLeadIn s = .fault (.illegalOpcode s.pc (memRead s (add16 s.pc 1#16)) true) :=
  exec_by_form .prefixLeadIn s

/-- A running core stops at an illegal slot of the primary table (R100). -/
theorem step_of_isIllegalSlot {s : State} (hrun : s.halted = false) (h : isIllegalSlot (memRead s s.pc) = true) :
    step s = .fault (.illegalOpcode s.pc (memRead s s.pc) false) := by
  rw [step_running hrun, fetchInstr_primary (ne_prefixByte_of_isIllegalSlot h),
    (decodePrimary_eq_illegal_iff _).2 h, exec_illegal]

/-- A running core stops at the lead-in, whatever byte follows it (R101, R174). -/
theorem step_of_prefixByte {s : State} (hrun : s.halted = false) (h : memRead s s.pc = config.prefixByte) :
    step s = .fault (.illegalOpcode s.pc (memRead s (add16 s.pc 1#16)) true) := by
  rw [step_running hrun, fetchInstr_prefixed h, exec_illegalPrefixed]

/-- The step transaction reports a step's condition and leaves the state as it was (R181). -/
theorem transact_step_of_fault {s : State} {f : Fault} (h : step s = .fault f) :
    transact .step s = (.condition f, s) := by
  simp only [transact, stepPort, h]

/-- Settles O9: each constructor's condition, then the fetch at such a byte and the step transaction on it. -/
theorem illegalSlotsReportIllegalOpcode : Obligations.IllegalSlotsReportIllegalOpcode := by
  intro b s
  refine ⟨exec_illegal b s, exec_illegalPrefixed b s, exec_prefixLeadIn s, fun hrun hb hslot => ?_,
    fun hrun hlead hb => ?_⟩
  · have hstep : step s = .fault (.illegalOpcode s.pc b false) := by
      subst hb
      exact step_of_isIllegalSlot hrun hslot
    exact ⟨hstep, transact_step_of_fault hstep⟩
  · have hstep : step s = .fault (.illegalOpcode s.pc b true) := by
      subst hb
      exact step_of_prefixByte hrun hlead
    exact ⟨hstep, transact_step_of_fault hstep⟩

end Sys2Proof.Machine
end

section
/-! PROOFS. The statements of 40_alu_add.md on ADD A,r: the encoding, the result and the flags (R120 to R123). -/

namespace Sys2Proof

/-! ### The byte of an instruction (R91, R92) -/

/-- The byte written from the bit fields of an implemented instruction is the byte the table lists it under. -/
theorem decodePrimary_opcode {f : Form} (h : f.instr.isDecodeFailure = false) : decodePrimary f.opcode = f.instr := by
  cases f with
  | addReg r => cases r <;> rfl
  | ldRegReg d r => cases d <;> cases r <;> rfl
  | ldRegImm d => cases d <;> rfl
  | ldRegHl d => cases d <;> rfl
  | ldHlReg r => cases r <;> rfl
  | jpCond cc => cases cc <;> rfl
  | pushPair rr => cases rr <;> rfl
  | popPair rr => cases rr <;> rfl
  | callCond cc => cases cc <;> rfl
  | retCond cc => cases cc <;> rfl
  | prefixLeadIn => contradiction
  | illegal b => contradiction
  | illegalPrefixed b => contradiction
  | _ => rfl

/-- ADD A,r is `10000sss`, sss the code of r. -/
theorem decodePrimary_addReg (r : Reg8) : decodePrimary (0b10000#5 ++ r.code) = (Form.addReg r).instr := by
  have himplemented : (Form.addReg r).instr.isDecodeFailure = false := by
    rw [Instr.isDecodeFailure, Form.form_instr]
  exact decodePrimary_opcode himplemented

end Sys2Proof

namespace Sys2Proof.Machine

/-! ### The sum and the flags of an addition (R120 to R122) -/

/-- The wrapped sum is the exact sum modulo 256 (R120). -/
theorem wrapSum_toNat (a v : Byte) : (wrapSum a v).toNat = (a.toNat + v.toNat) % 256 := BitVec.toNat_ofNat _ _

theorem wrapSum_eq_ofNat_mod (a v : Byte) : wrapSum a v = BitVec.ofNat 8 ((a.toNat + v.toNat) % 256) := by
  rw [← wrapSum_toNat, BitVec.ofNat_toNat, BitVec.setWidth_eq]

theorem wrapSum_eq_zero_iff (a v : Byte) : wrapSum a v = 0 ↔ (a.toNat + v.toNat) % 256 = 0 := by
  rw [← wrapSum_toNat]
  exact BitVec.toNat_inj.symm

/-- The four flags over the exact sum and the low nibbles. -/
theorem addFlags_eq (a v : Byte) :
    addFlags a v = {
      z := decide ((a.toNat + v.toNat) % 256 = 0), n := false,
      h := decide (a.toNat % 16 + v.toNat % 16 > 0xF), c := decide (a.toNat + v.toNat > 0xFF) } := by
  simp only [addFlags, wrapSum_eq_zero_iff, halfCarry, carryOut]

/-! ### ADD A,r (R123) -/

/-- ADD writes A, the flags and pc, each once, and no other field. -/
theorem addReg_eq (r : Reg8) (s : State) :
    addReg r s =
      { s with a := wrapSum s.a (s.reg r), flags := addFlags s.a (s.reg r), pc := add16 s.pc 1#16 } := (rfl)

theorem exec_addReg (r : Reg8) (s : State) : exec (Form.addReg r).instr s = .next (addReg r s) := exec_instr rfl

/-- Settles O12: 0x86 is one of R100's slots, the byte is that of the bit fields, and the state is that of `addReg_eq`
with the sum and the flags over natural numbers. -/
theorem addWritesSumAndFlags : Obligations.AddWritesSumAndFlags := by
  refine ⟨(decodePrimary_eq_illegal_iff 0x86).2 (by decide), fun r s => ⟨decodePrimary_addReg r, ?_⟩⟩
  rw [exec_addReg, addReg_eq, wrapSum_eq_ofNat_mod, addFlags_eq]

end Sys2Proof.Machine
end

section
/-! PROOFS. The statements of 41_jump.md on JP: the encodings and the pc it leaves, taken and not taken (R131, R132). -/

namespace Sys2Proof

/-- JP cc,a16 is `110cc010`, cc the code of the condition. -/
theorem decodePrimary_jpCond (cc : Cond) :
    decodePrimary (0b110#3 ++ cc.code ++ 0b010#3) = (Form.jpCond cc).instr := by
  have hbyte : 0b110#3 ++ cc.code ++ 0b010#3 = (Form.jpCond cc).opcode := by cases cc <;> rfl
  have himplemented : (Form.jpCond cc).instr.isDecodeFailure = false := by
    rw [Instr.isDecodeFailure, Form.form_instr]
  rw [hbyte, decodePrimary_opcode himplemented]

end Sys2Proof

namespace Sys2Proof.Machine

/-! ### JP a16 (R131) -/

/-- A jump writes pc and no other field. -/
theorem jumpImm_eq (s : State) : jumpImm s = { s with pc := immediateIn s s } := by
  rw [← jumpImm_pc, jumpImm, State.setPc]

theorem exec_jp (s : State) : exec .jp_a16 s = .next (jumpImm s) := exec_next_of_form rfl

/-- Settles O14: the byte of JP a16, and the one field `jumpImm_eq` lets a jump write. -/
theorem jumpGoesToTheImmediate : Obligations.JumpGoesToTheImmediate := by
  refine ⟨decodePrimary_opcode (f := .jp) rfl, fun s => ?_⟩
  rw [exec_jp, jumpImm_eq, immediateIn]

/-! ### JP cc,a16 (R132) -/

/-- NZ reads the zero flag, inverted (R94). -/
theorem condHolds_NZ_iff (f : Flags) : condHolds f .NZ = true ↔ f.z = false := by
  rw [condHolds, Bool.not_eq_true']

/-- NC reads the carry flag, inverted (R94). -/
theorem condHolds_NC_iff (f : Flags) : condHolds f .NC = true ↔ f.c = false := by
  rw [condHolds, Bool.not_eq_true']

/-- Taken or not, a conditional jump writes pc and no other field. -/
theorem jumpCond_eq (cc : Cond) (s : State) :
    jumpCond cc s = { s with pc := if condHolds s.flags cc then immediateIn s s else add16 s.pc 3#16 } := by
  rw [jumpCond]
  split
  · exact jumpImm_eq s
  · rw [advance_eq, State.setPc]

/-- A conditional jump by a test `p` of the flags that says when its condition holds. -/
theorem exec_jpCond {cc : Cond} {s : State} {p : Prop} [Decidable p] (h : condHolds s.flags cc = true ↔ p) :
    exec (Form.jpCond cc).instr s =
      .next { s with pc := if p then immediateIn s s else add16 s.pc 3#16 } := by
  have hnext : exec (Form.jpCond cc).instr s = .next (jumpCond cc s) := exec_instr rfl
  simp only [hnext, jumpCond_eq, h]

/-- Settles O15: the byte of the bit fields, then `exec_jpCond` with the flag test of each condition. -/
theorem conditionalJumpFollowsItsFlag : Obligations.ConditionalJumpFollowsItsFlag :=
  ⟨decodePrimary_jpCond, fun s =>
    ⟨exec_jpCond (cc := .NZ) (condHolds_NZ_iff s.flags), exec_jpCond (cc := .Z) Iff.rfl,
      exec_jpCond (cc := .NC) (condHolds_NC_iff s.flags), exec_jpCond (cc := .C) Iff.rfl⟩⟩

end Sys2Proof.Machine
end

section
/-! PROOFS. The statements of 42_load.md on LD: the encodings, the registers loaded (R141 to R143) and the byte stored
at HL (R144, R145). -/

namespace Sys2Proof

/-! ### The bytes of the loads (R91) -/

/-- The fields of `01dddsss` as a number. -/
theorem ofNat_fields_eq_append (d r : BitVec 3) : BitVec.ofNat 8 (0x40 + 8 * d.toNat + r.toNat) = 0b01#2 ++ d ++ r := by
  have hd : (0b01#2 ++ d).toNat = 8 + d.toNat := by
    rw [BitVec.toNat_append, ← Nat.shiftLeft_add_eq_or_of_lt d.isLt]
    rfl
  apply BitVec.eq_of_toNat_eq
  rw [BitVec.toNat_append, ← Nat.shiftLeft_add_eq_or_of_lt r.isLt, hd, Nat.shiftLeft_eq, BitVec.toNat_ofNat]
  omega

end Sys2Proof

namespace Sys2Proof.Machine

/-- A form that commits a state is implemented, so its byte decodes to its instruction. -/
theorem decodePrimary_opcode_of_formNext {f : Form} {s t : State} (h : formNext f s = some t) :
    decodePrimary f.opcode = f.instr := by
  refine decodePrimary_opcode ?_
  rw [Instr.isDecodeFailure, Form.form_instr]
  cases f with
  | prefixLeadIn => contradiction
  | illegal b => contradiction
  | illegalPrefixed b => contradiction
  | _ => rfl

/-! ### Loading a register (R141 to R143) -/

theorem OtherRegsSame.advance {ds : List Reg8} {s t : State} (h : OtherRegsSame ds s t) (n : Word) :
    OtherRegsSame ds s (advance t n) := by
  obtain ⟨hreg, hhalted⟩ := h
  exact ⟨fun q hq => (State.reg_setPc t _ q).trans (hreg q hq), hhalted⟩

theorem otherRegsSame_setReg (s : State) (d : Reg8) (v : Byte) : OtherRegsSame [d] s (s.setReg d v) := by
  refine ⟨fun q hq => ?_, State.setReg_halted s d v⟩
  rw [State.reg_setReg, if_neg fun h => hq (List.mem_singleton.2 h)]

theorem memorySame_setReg (s : State) (d : Reg8) (v : Byte) : MemorySame s (s.setReg d v) :=
  ⟨memRead_setReg s d v, State.setReg_plain s d v, State.setReg_vram s d v, State.setReg_tiles s d v⟩

/-- From `s` to `t`, register `d` takes `v`, pc advances by `n`, and nothing else changes. -/
def LoadsRegister (d : Reg8) (v : Byte) (n : Word) (s t : State) : Prop :=
  t.reg d = v ∧ OtherRegsSame [d] s t ∧ t.flags = s.flags ∧ t.sp = s.sp ∧ t.pc = add16 s.pc n ∧ MemorySame s t

theorem loadsRegister_advance_setReg (d : Reg8) (v : Byte) (n : Word) (s : State) :
    LoadsRegister d v n s (advance (s.setReg d v) n) := by
  refine ⟨?_, (otherRegsSame_setReg s d v).advance n, State.setReg_flags s d v, State.setReg_sp s d v, ?_,
    memorySame_setReg s d v⟩
  · rw [advance_eq, State.reg_setPc, State.reg_setReg_same]
  · rw [advance_eq, State.setPc_pc, State.setReg_pc]

/-- Settles O16: the byte of the bit fields, and a load of the source's value with pc past one byte. -/
theorem loadRegisterCopies : Obligations.LoadRegisterCopies := by
  intro d r s
  have hnext : formNext (.ldRegReg d r) s = some (ldRegReg d r s) := rfl
  rw [ofNat_fields_eq_append]
  exact ⟨decodePrimary_opcode_of_formNext hnext, ldRegReg d r s, exec_instr hnext,
    loadsRegister_advance_setReg d (s.reg r) 1#16 s⟩

/-- Settles O17: a load of the byte after the opcode with pc past two bytes. -/
theorem loadImmediateCopies : Obligations.LoadImmediateCopies := by
  intro d s
  have hnext : formNext (.ldRegImm d) s = some (ldRegImm d s) := rfl
  exact ⟨decodePrimary_opcode_of_formNext hnext, ldRegImm d s, exec_instr hnext,
    loadsRegister_advance_setReg d (imm8 s) 2#16 s⟩

/-- Settles O18: a load of the byte at HL, the address being that of the state before the load, for H and L too. -/
theorem loadFromHlReads : Obligations.LoadFromHlReads := by
  intro d s
  have hnext : formNext (.ldRegHl d) s = some (ldRegHl d s) := rfl
  rw [← hlAddr_eq_ofNat]
  exact ⟨decodePrimary_opcode_of_formNext hnext, ldRegHl d s, exec_instr hnext,
    loadsRegister_advance_setReg d (memRead s (hlAddr s)) 1#16 s⟩

/-! ### Storing at HL (R144, R145) -/

/-- From `s` to `t`, the byte at HL becomes `v` by a bus write, pc advances by `n`, and nothing else changes. -/
def StoresAtHl (v : Byte) (n : Word) (s t : State) : Prop :=
  (∀ x, x = hlAddr s → x = BitVec.ofNat 16 (s.h.toNat * 256 + s.l.toNat) ∧ memRead t x = v ∧
    ∀ y, y ≠ x → memRead t y = memRead s y) ∧
  OtherRegsSame [] s t ∧ t.flags = s.flags ∧ t.sp = s.sp ∧ t.pc = add16 s.pc n ∧
  t.plain = (memWrite s (hlAddr s) v).plain ∧ t.vram = (memWrite s (hlAddr s) v).vram ∧
  t.tiles = (memWrite s (hlAddr s) v).tiles

theorem storesAtHl_advance_memWrite (v : Byte) (n : Word) (s : State) :
    StoresAtHl v n s (advance (memWrite s (hlAddr s) v) n) := by
  obtain ⟨hregs, hflags, hpc, hsp⟩ := (RegistersSame.refl s).memWrite (hlAddr s) v
  refine ⟨?_, hregs.advance n, hflags, hsp, congrArg (add16 · n) hpc, rfl, rfl, rfl⟩
  rintro x rfl
  exact ⟨hlAddr_eq_ofNat s, memRead_memWrite_same s _ v, fun y hy => memRead_memWrite_other s v hy⟩

/-- Settles O19: a store of the register's value with pc past one byte. -/
theorem storeRegisterAtHl : Obligations.StoreRegisterAtHl := by
  intro r s
  have hnext : formNext (.ldHlReg r) s = some (ldHlReg r s) := rfl
  exact ⟨decodePrimary_opcode_of_formNext hnext, ldHlReg r s, exec_instr hnext,
    storesAtHl_advance_memWrite (s.reg r) 1#16 s⟩

/-- Settles O20: a store of the byte after the opcode as the old state holds it, with pc past two bytes. -/
theorem storeImmediateAtHl : Obligations.StoreImmediateAtHl :=
  ⟨decodePrimary_opcode (f := .ldHlImm) rfl, fun s =>
    ⟨ldHlImm s, exec_next_of_form rfl, storesAtHl_advance_memWrite (imm8 s) 2#16 s⟩⟩

end Sys2Proof.Machine
end

section
/-! PROOFS. The statements of 43_stack.md: Push16 and Pop16 (R150, R151), PUSH (R152, R153) and POP (R154, R155). -/

namespace Sys2Proof

/-! ### The bytes of PUSH and POP (R95) -/

/-- PUSH rr is `11rr0101`, rr the code of the pair. -/
theorem opcode_pushPair (rr : Pair) : (Form.pushPair rr).opcode = 0b11#2 ++ rr.code ++ 0b0101#4 := by
  cases rr <;> rfl

/-- POP rr is `11rr0001`. -/
theorem opcode_popPair (rr : Pair) : (Form.popPair rr).opcode = 0b11#2 ++ rr.code ++ 0b0001#4 := by
  cases rr <;> rfl

end Sys2Proof

namespace Sys2Proof.Machine

/-! ### Push16 and Pop16 (R150, R151) -/

theorem hiByte_eq_ofNat (v : Word) : hiByte v = BitVec.ofNat 8 (v.toNat / 256) := by
  rw [← hiByte_toNat, BitVec.ofNat_toNat, BitVec.setWidth_eq]

theorem loByte_eq_ofNat (v : Word) : loByte v = BitVec.ofNat 8 (v.toNat % 256) := by
  rw [← loByte_toNat, BitVec.ofNat_toNat, BitVec.setWidth_eq]

theorem memRead_push16_high (s : State) (v : Word) : memRead (push16 s v) (sub16 s.sp 1#16) = hiByte v := by
  rw [memRead_push16, if_neg (sub16_one_ne_two s.sp), if_pos rfl]

theorem memRead_push16_low (s : State) (v : Word) : memRead (push16 s v) (sub16 s.sp 2#16) = loByte v := by
  rw [memRead_push16, if_pos rfl]

theorem memRead_push16_other (s : State) (v : Word) {y : Word} (h1 : y ≠ sub16 s.sp 1#16)
    (h2 : y ≠ sub16 s.sp 2#16) : memRead (push16 s v) y = memRead s y := by
  rw [memRead_push16, if_neg h2, if_neg h1]

/-- Settles O25: `push16` is the two bus writes and the move of sp, and `memRead_push16` says what it leaves to read. -/
theorem pushWritesHighThenLow : Obligations.PushWritesHighThenLow := by
  intro s v
  rw [← hiByte_eq_ofNat, ← loByte_eq_ofNat]
  exact ⟨rfl, memRead_push16_high s v, memRead_push16_low s v, fun _ h1 h2 => memRead_push16_other s v h1 h2⟩

/-- Settles O26: the pop reads the two bytes the push wrote, and its sp + 2 undoes the push's sp - 2. -/
theorem popAfterPushRestores : Obligations.PopAfterPushRestores := fun s v =>
  ⟨popValue_eq_stackTop s, rfl, popValue_push16 s v, add16_sub16_two s.sp, fun _ => rfl⟩

/-! ### PUSH (R152, R153) -/

/-- From `s` to `t`, `v` is pushed by the two bus writes of Push16, pc advances by 1, and nothing else changes. -/
def Pushes (v : Word) (s t : State) : Prop :=
  memRead t (sub16 s.sp 1#16) = hiByte v ∧ memRead t (sub16 s.sp 2#16) = loByte v ∧
  (∀ y, y ≠ sub16 s.sp 1#16 → y ≠ sub16 s.sp 2#16 → memRead t y = memRead s y) ∧
  t.sp = sub16 s.sp 2#16 ∧ OtherRegsSame [] s t ∧ t.flags = s.flags ∧ t.pc = add16 s.pc 1#16 ∧
  t.plain = (push16 s v).plain ∧ t.vram = (push16 s v).vram ∧ t.tiles = (push16 s v).tiles

theorem otherRegsSame_push16 (s : State) (v : Word) : OtherRegsSame [] s (push16 s v) :=
  ⟨fun q _ => push16_reg s v q, push16_halted s v⟩

theorem pushes_advance_push16 (v : Word) (s : State) : Pushes v s (advance (push16 s v) 1#16) :=
  ⟨memRead_push16_high s v, memRead_push16_low s v, fun _ h1 h2 => memRead_push16_other s v h1 h2, push16_sp s v,
    (otherRegsSame_push16 s v).advance 1#16, push16_flags s v, congrArg (add16 · 1#16) (push16_pc s v), rfl, rfl, rfl⟩

/-- Settles O21: the byte of the bit fields, and a push of the pair, whose halves are its two registers. -/
theorem pushPairStoresBothHalves : Obligations.PushPairStoresBothHalves := by
  intro rr s
  have hnext : formNext (.pushPair rr) s = some (pushPair rr s) := rfl
  obtain ⟨hhigh, hlow, hframe⟩ := pushes_advance_push16 (s.pair rr) s
  rw [State.pair, hiByte_mkWord] at hhigh
  rw [State.pair, loByte_mkWord] at hlow
  rw [← opcode_pushPair]
  exact ⟨decodePrimary_opcode_of_formNext hnext, pushPair rr s, exec_instr hnext, hhigh, hlow, hframe⟩

theorem exec_pushAf (s : State) : exec .push_AF s = .next (pushAf s) := exec_next_of_form rfl

/-- PUSH AF leaves the packed flag byte at the new sp. -/
theorem memRead_pushAf_low (s : State) : memRead (pushAf s) (sub16 s.sp 2#16) = packF s.flags :=
  (memRead_push16_low s s.af).trans (loByte_mkWord s.a (packF s.flags))

/-- Settles O22: a push of AF, whose halves are A and the packed flag byte. -/
theorem pushAfStoresAAndFlags : Obligations.PushAfStoresAAndFlags := by
  refine ⟨decodePrimary_opcode (f := .pushAf) rfl, fun s => ⟨pushAf s, exec_pushAf s, ?_⟩⟩
  obtain ⟨hhigh, -, hframe⟩ := pushes_advance_push16 s.af s
  refine ⟨hhigh.trans (hiByte_mkWord s.a _), ?_, hframe⟩
  rw [memRead_pushAf_low, packF_toNat]

/-! ### POP (R154, R155) -/

theorem OtherRegsSame.trans {ds : List Reg8} {s t u : State} (hst : OtherRegsSame ds s t)
    (htu : OtherRegsSame ds t u) : OtherRegsSame ds s u :=
  ⟨fun q hq => (htu.1 q hq).trans (hst.1 q hq), htu.2.trans hst.2⟩

theorem otherRegsSame_popState (ds : List Reg8) (s : State) : OtherRegsSame ds s (popState s) :=
  ⟨fun q _ => State.reg_setSp s _ q, rfl⟩

theorem loByte_popValue (s : State) : loByte (popValue s) = memRead s s.sp := loByte_mkWord _ _

theorem hiByte_popValue (s : State) : hiByte (popValue s) = memRead s (add16 s.sp 1#16) := hiByte_mkWord _ _

/-- Settles O23: the byte of the bit fields, and a write of the popped value to the pair after the move of sp. -/
theorem popPairLoadsBothHalves : Obligations.PopPairLoadsBothHalves := by
  intro rr s
  have hnext : formNext (.popPair rr) s = some (popPair rr s) := rfl
  have hregs : OtherRegsSame [pairHi rr, pairLo rr] s (popPair rr s) :=
    ((otherRegsSame_popState _ s).trans (otherRegsSame_setPair (popState s) rr (popValue s))).advance 1#16
  have hmem : MemorySame s (popPair rr s) := memorySame_setPair (popState s) rr (popValue s)
  rw [← opcode_popPair]
  refine ⟨decodePrimary_opcode_of_formNext hnext, popPair rr s, exec_instr hnext, ?_, ?_, hregs,
    setPair_flags (popState s) rr _, setPair_sp (popState s) rr _,
    congrArg (add16 · 1#16) (setPair_pc (popState s) rr _), hmem⟩
  · rw [popPair, advance_eq, State.reg_setPc, reg_pairLo_setPair, loByte_popValue]
  · rw [popPair, advance_eq, State.reg_setPc, reg_pairHi_setPair, hiByte_popValue]

theorem exec_popAf (s : State) : exec .pop_AF s = .next (popAf s) := exec_next_of_form rfl

theorem otherRegsSame_setAf (s : State) (v : Word) : OtherRegsSame [.A] s (s.setAf v) := by
  obtain ⟨hreg, hhalted⟩ := otherRegsSame_setReg s .A (hiByte v)
  exact ⟨fun q hq => (State.reg_setFlags _ _ q).trans (hreg q hq), hhalted⟩

theorem memorySame_setAf (s : State) (v : Word) : MemorySame s (s.setAf v) := memorySame_setReg s .A (hiByte v)

theorem popAf_a (s : State) : (popAf s).a = memRead s (add16 s.sp 1#16) := hiByte_popValue s

theorem popAf_flags (s : State) : (popAf s).flags = unpackF (memRead s s.sp) := congrArg unpackF (loByte_popValue s)

theorem popAf_sp (s : State) : (popAf s).sp = add16 s.sp 2#16 := (rfl)

/-- Unpacking drops the low nibble and packing fills it with zeros (R26), checked byte by byte. -/
theorem packF_unpackF (b : Byte) : packF (unpackF b) = b &&& 0xF0#8 := by
  revert b
  apply Byte.forall_of_ofNat
  decide +kernel

/-- A PUSH AF after a POP AF stores the popped byte with its low nibble cleared, where that byte lay (R24). -/
theorem memRead_pushAf_popAf (s : State) : memRead (pushAf (popAf s)) s.sp = memRead s s.sp &&& 0xF0#8 := by
  have hsp : sub16 (popAf s).sp 2#16 = s.sp := by rw [popAf_sp, sub16_add16_two]
  calc memRead (pushAf (popAf s)) s.sp
      = memRead (pushAf (popAf s)) (sub16 (popAf s).sp 2#16) := by rw [hsp]
    _ = packF (unpackF (memRead s s.sp)) := by rw [memRead_pushAf_low, popAf_flags]
    _ = memRead s s.sp &&& 0xF0#8 := packF_unpackF _

/-! ### The flags of every form (R27) -/

/-- The flags each form leaves: ADD writes all four, POP AF loads them from the byte at sp, and no other form writes one. -/
def formFlags : Form → State → Flags
  | .addReg r, s => addFlags s.a (s.reg r)
  | .popAf, s => unpackF (memRead s s.sp)
  | _, s => s.flags

theorem callImm_flags (s : State) : (callImm s).flags = s.flags := push16_flags s (returnAddr s)

/-- The state a form commits has the flags of the form's row. -/
theorem formNext_flags {f : Form} {s t : State} (h : formNext f s = some t) : t.flags = formFlags f s := by
  cases f <;> simp only [formNext, Option.some.injEq, reduceCtorEq] at h <;> subst h <;> simp only [formFlags]
  case addReg r => rfl
  case ldRegReg d r => exact State.setReg_flags s d _
  case ldRegImm d => exact State.setReg_flags s d _
  case ldRegHl d => exact State.setReg_flags s d _
  case ldHlReg r => exact memWrite_flags s _ _
  case ldHlImm => exact memWrite_flags s _ _
  case jp => rfl
  case jpCond cc => rw [jumpCond_eq]
  case pushPair rr => exact push16_flags s _
  case pushAf => exact push16_flags s _
  case popPair rr => exact setPair_flags (popState s) rr _
  case popAf => exact popAf_flags s
  case call => exact callImm_flags s
  case callCond cc => unfold callCond; split; exacts [callImm_flags s, rfl]
  case ret => rfl
  case retCond cc => unfold retCond; split <;> rfl
  case nop => rfl
  case halt => rfl

/-- Only POP AF turns the subtract flag from false to true: ADD clears it and the other forms keep it. -/
theorem eq_popAf_of_formFlags_n {f : Form} {s : State} (hs : s.flags.n = false) (ht : (formFlags f s).n = true) :
    f = .popAf := by
  cases f with
  | popAf => rfl
  | addReg r => exact absurd ht Bool.false_ne_true
  | _ => exact absurd (hs.symm.trans ht) Bool.false_ne_true

/-- Settles O24: the registers, flags and frame of `popAf`, the PUSH AF after it by `memRead_pushAf_popAf`, and the subtract
flag by the table of `formFlags`. -/
theorem popAfLoadsAAndFlags : Obligations.PopAfLoadsAAndFlags := by
  refine ⟨decodePrimary_opcode (f := .popAf) rfl, fun s => ?_, fun i s t hexec hs ht => ?_⟩
  · have hregs : OtherRegsSame [.A] s (popAf s) :=
      ((otherRegsSame_popState _ s).trans (otherRegsSame_setAf (popState s) (popValue s))).advance 1#16
    have hpack : packF (popAf s).flags = memRead s s.sp &&& 0xF0#8 := by rw [popAf_flags, packF_unpackF]
    exact ⟨popAf s, pushAf (popAf s), exec_popAf s, popAf_a s, popAf_flags s, hpack, hregs, popAf_sp s, rfl,
      memorySame_setAf (popState s) (popValue s), exec_pushAf (popAf s), memRead_pushAf_popAf s⟩
  · rw [formNext_flags (exec_next_iff.1 hexec)] at ht
    exact Instr.form_inj (eq_popAf_of_formFlags_n hs ht)

end Sys2Proof.Machine
end

section
/-! PROOFS. The statements of 44_call_ret.md on CALL (R161, R162) and RET (R164, R165). -/

namespace Sys2Proof

/-! ### The bytes of the conditional CALL and RET (R91) -/

/-- CALL cc,a16 is `110cc100`, cc the code of the condition. -/
theorem decodePrimary_callCond (cc : Cond) :
    decodePrimary (0b110#3 ++ cc.code ++ 0b100#3) = (Form.callCond cc).instr := by
  cases cc <;> rfl

/-- RET cc is `110cc000`. -/
theorem decodePrimary_retCond (cc : Cond) :
    decodePrimary (0b110#3 ++ cc.code ++ 0b000#3) = (Form.retCond cc).instr := by
  cases cc <;> rfl

end Sys2Proof

namespace Sys2Proof.Machine

/-! ### CALL a16 (R161) -/

/-- A taken CALL is a push of the return address followed by a write of pc, which no read of memory sees. -/
theorem callEffect_callImm (s : State) : CallEffect s (callImm s) :=
  ⟨memRead_push16_high s (returnAddr s), memRead_push16_low s (returnAddr s),
    fun _ h1 h2 => memRead_push16_other s (returnAddr s) h1 h2, push16_sp s (returnAddr s), callImm_pc s,
    ⟨fun q _ => push16_reg s (returnAddr s) q, push16_halted s (returnAddr s)⟩, callImm_flags s, rfl, rfl, rfl⟩

theorem exec_call (s : State) : exec .call_a16 s = .next (callImm s) := exec_next_of_form rfl

/-- Settles O28: the byte of CALL a16, and the effect of the push and the jump. -/
theorem callPushesAndJumps : Obligations.CallPushesAndJumps :=
  ⟨decodePrimary_opcode (f := .call) rfl, fun s => ⟨callImm s, exec_call s, callEffect_callImm s⟩⟩

/-! ### CALL cc,a16 (R162) -/

theorem callCond_of_holds {cc : Cond} {s : State} (h : condHolds s.flags cc = true) : callCond cc s = callImm s := by
  rw [callCond, if_pos h]

theorem callCond_of_not_holds {cc : Cond} {s : State} (h : ¬condHolds s.flags cc = true) :
    callCond cc s = { s with pc := add16 s.pc 3#16 } := by
  rw [callCond, if_neg h, State.setPc, returnAddr]

/-- A conditional CALL that is taken exactly when a flag `x` has the value `b`. -/
theorem exec_callCond {cc : Cond} {s : State} {x b : Bool} (h : condHolds s.flags cc = true ↔ x = b) :
    ∃ t, exec (Form.callCond cc).instr s = .next t ∧
      ((x = b ∧ CallEffect s t) ∨ (x = !b ∧ t = { s with pc := add16 s.pc 3#16 })) := by
  refine ⟨callCond cc s, exec_instr rfl, ?_⟩
  by_cases hx : x = b
  · rw [callCond_of_holds (h.2 hx)]
    exact .inl ⟨hx, callEffect_callImm s⟩
  · exact .inr ⟨Bool.eq_not_of_ne hx, callCond_of_not_holds (mt h.1 hx)⟩

/-- Settles O29: the byte of the bit fields, then `exec_callCond` with the flag test of each condition. -/
theorem conditionalCallFollowsItsFlag : Obligations.ConditionalCallFollowsItsFlag :=
  ⟨decodePrimary_callCond, fun s =>
    ⟨exec_callCond (cc := .NZ) (condHolds_NZ_iff s.flags), exec_callCond (cc := .Z) Iff.rfl,
      exec_callCond (cc := .NC) (condHolds_NC_iff s.flags), exec_callCond (cc := .C) Iff.rfl⟩⟩

/-! ### RET (R164) -/

/-- A taken RET writes pc and sp and no other field. -/
theorem retAlways_eq (s : State) : retAlways s = { s with pc := stackTop s, sp := add16 s.sp 2#16 } := by
  rw [← retAlways_pc, retAlways, popState, State.setSp, State.setPc]

theorem exec_ret (s : State) : exec .ret s = .next (retAlways s) := exec_next_of_form rfl

/-- Settles O31: the byte of RET, and the two fields `retAlways_eq` lets a return write. -/
theorem returnPopsPc : Obligations.ReturnPopsPc := by
  refine ⟨decodePrimary_opcode (f := .ret) rfl, fun s => ?_⟩
  rw [exec_ret, retAlways_eq, stackTop]

/-! ### RET cc (R165) -/

/-- A conditional RET by a test `p` of the flags that says when its condition holds. -/
theorem exec_retCond {cc : Cond} {s : State} {p : Prop} [Decidable p] (h : condHolds s.flags cc = true ↔ p) :
    exec (Form.retCond cc).instr s =
      .next (if p then { s with pc := stackTop s, sp := add16 s.sp 2#16 } else { s with pc := add16 s.pc 1#16 }) := by
  have hnext : exec (Form.retCond cc).instr s = .next (retCond cc s) := exec_instr rfl
  simp only [hnext, retCond, h, retAlways_eq, advance_eq, State.setPc]

/-- Settles O32: the byte of the bit fields, then `exec_retCond` with the flag test of each condition. -/
theorem conditionalReturnFollowsItsFlag : Obligations.ConditionalReturnFollowsItsFlag :=
  ⟨decodePrimary_retCond, fun s =>
    ⟨exec_retCond (cc := .NZ) (condHolds_NZ_iff s.flags), exec_retCond (cc := .Z) Iff.rfl,
      exec_retCond (cc := .NC) (condHolds_NC_iff s.flags), exec_retCond (cc := .C) Iff.rfl⟩⟩

end Sys2Proof.Machine
end

section
/-! PROOFS. The statements of 45_misc.md: NOP (R170), HALT (R171), a halted core (R172), the whole step (R173). -/

namespace Sys2Proof.Machine

/-! ### The complete step (R173) -/

/-- Every instruction commits a state, the three forms of a decode failure apart. -/
theorem exists_exec_next {i : Instr} (h : i.isDecodeFailure = false) (s : State) : ∃ t, exec i s = .next t := by
  suffices hform : ∃ t, formNext i.form s = some t from hform.imp fun _ => exec_next_of_form
  rw [Instr.isDecodeFailure] at h
  generalize i.form = f at h
  cases f with
  | prefixLeadIn => contradiction
  | illegal b => contradiction
  | illegalPrefixed b => contradiction
  | _ => exact ⟨_, rfl⟩

/-- A running core whose pc is not at the lead-in executes the instruction of the byte there. -/
theorem step_of_ne_prefixByte {s : State} (hrun : s.halted = false) (h : memRead s s.pc ≠ config.prefixByte) :
    step s = exec (decodePrimary (memRead s s.pc)) s := by
  rw [step_running hrun, fetchInstr_primary h]

theorem isDecodeFailure_decodePrimary_eq_false {b : Byte} (hlead : b ≠ config.prefixByte)
    (hslot : isIllegalSlot b = false) : (decodePrimary b).isDecodeFailure = false := by
  rw [Bool.eq_false_iff, ne_eq, isDecodeFailure_decodePrimary_iff]
  simp [hlead, hslot]

/-- Settles O7: one lemma on `step` per line of the transition; an implemented byte commits, being no decode failure. -/
theorem stepIsTheWholeTransition : Obligations.StepIsTheWholeTransition := by
  refine fun s => ⟨step_halted, step_of_prefixByte, step_of_isIllegalSlot, fun hrun hlead hslot => ?_⟩
  have hstep : step s = exec (decodePrimary (memRead s s.pc)) s := step_of_ne_prefixByte hrun hlead
  refine ⟨hstep, ?_⟩
  rw [hstep]
  exact exists_exec_next (isDecodeFailure_decodePrimary_eq_false hlead hslot) s

/-! ### A halted core (R172) -/

/-- A run that begins with a committed step goes on from the state that step commits. -/
theorem run_succ_of_step {s t : State} (h : step s = .next t) (n : Nat) :
    Host.Core.run core (n + 1) s = Host.Core.run core n t := by
  have hcore : core.step s = .next t := h
  simp only [Host.Core.run, hcore]

/-- Settles O8, by induction on the number of steps, each the identity. -/
theorem haltedRunIsTheIdentity : Obligations.HaltedRunIsTheIdentity := by
  intro n s hhalted
  induction n with
  | zero => rfl
  | succ n ih => rw [run_succ_of_step (step_halted hhalted), ih]

/-! ### NOP and HALT (R170, R171) -/

theorem exec_nop (s : State) : exec .nop s = .next (nopStep s) := exec_next_of_form rfl

theorem exec_halt (s : State) : exec .halt s = .next (haltStep s) := exec_next_of_form rfl

/-- Settles O34: the byte of NOP, and an advance of pc by one, which writes no other field. -/
theorem nopOnlyAdvances : Obligations.NopOnlyAdvances := by
  refine ⟨decodePrimary_opcode (f := .nop) rfl, fun s => ?_⟩
  rw [exec_nop, nopStep, advance_eq, State.setPc]

/-- Settles O35: the byte of HALT, and a write of the run state, which leaves pc and every other field. -/
theorem haltOnlyHalts : Obligations.HaltOnlyHalts := by
  refine ⟨decodePrimary_opcode (f := .halt) rfl, fun s => ?_⟩
  rw [exec_halt, haltStep, State.setHalted]

end Sys2Proof.Machine
end

section
/-! PROOFS. The statements of 60_exceptions.md: the wake (R191). -/

namespace Sys2Proof.Machine

/-! ### The wake (R191) -/

theorem transact_wake (s : State) : (transact .wake s).2 = s.setHalted false := rfl

/-- Writing the run state a core already has changes nothing. -/
theorem State.setHalted_eq_self {s : State} {v : Bool} (h : s.halted = v) : s.setHalted v = s := by
  subst h
  rfl

/-- Settles O52: a wake is a write of the run state alone, and on a running core it writes the value already there. -/
theorem wakeOnlyClearsHalted : Obligations.WakeOnlyClearsHalted := by
  refine fun s => ⟨?_, fun hrun => ?_⟩
  · rw [transact_wake, State.setHalted]
  · rw [transact_wake, State.setHalted_eq_self hrun]

end Sys2Proof.Machine
end

section
/-! PROOFS. The statements of 30_encoding.md on the decoder and the encoder: each undoes the other (R98, R103), the
length (R99), and bytes written out (R91). -/

namespace Sys2Proof

/-! ### The decoder by its first bytes (R98, R107) -/

/-- A byte that is not the lead-in is looked up in the primary table, whatever bytes follow it. -/
theorem decode_cons_of_ne_prefixByte {b : Byte} (h : b ≠ config.prefixByte) :
    ∀ rest : List Byte, decode (b :: rest) = .ok (decodePrimary b, rest)
  | [] => rfl
  | _ :: _ => if_neg h

theorem decode_prefixByte_cons (b : Byte) (rest : List Byte) :
    decode (config.prefixByte :: b :: rest) = .ok (.illegalPrefixed b, rest) := by
  rw [decode, if_pos rfl, decodeByte_true]

/-! ### The encoder (R91) -/

/-- Only an instruction of the prefixed table has a second opcode byte. -/
theorem encode_eq_singleton {i : Instr} (h : ∀ b, i.form ≠ .illegalPrefixed b) : encode i = [i.form.opcode] := by
  unfold encode
  split
  case h_1 b hform => exact absurd hform (h b)
  case h_2 => rfl

/-- The one opcode byte of a well-formed instruction of the primary table is the byte the table lists it under. -/
theorem decodePrimary_opcode_of_wf {i : Instr} (hwf : i.wf = true) (h : ∀ b, i.form ≠ .illegalPrefixed b) :
    decodePrimary i.form.opcode = i := by
  rw [← i.instr_form, Form.form_instr]
  unfold Instr.wf at hwf
  generalize i.form = f at h hwf
  cases f with
  | illegalPrefixed b => exact absurd rfl (h b)
  | illegal b => exact (decodePrimary_eq_illegal_iff b).2 hwf
  | prefixLeadIn => rfl
  | _ =>
    refine decodePrimary_opcode ?_
    rw [Instr.isDecodeFailure, Form.form_instr]

/-- Settles O1: an instruction of the prefixed table encodes to the lead-in and its byte; any other to one byte, which the
primary table gives back, and which is the lead-in for the lead-in's own row only. -/
theorem decodeOfEncodeIsTheInstruction : Obligations.DecodeOfEncodeIsTheInstruction := by
  intro i hwf
  by_cases hpre : ∃ b, i.form = .illegalPrefixed b
  · obtain ⟨b, hform⟩ := hpre
    obtain rfl : i = .illegalPrefixed b := Instr.form_inj hform
    exact ⟨decode_prefixByte_cons b [], fun rest _ => decode_prefixByte_cons b rest⟩
  · have hone : ∀ b, i.form ≠ .illegalPrefixed b := fun b hb => hpre ⟨b, hb⟩
    have hdec : decodePrimary i.form.opcode = i := decodePrimary_opcode_of_wf hwf hone
    rw [encode_eq_singleton hone]
    refine ⟨?_, fun rest hlead => ?_⟩
    · rw [decode, decodeByte_false, hdec]
    · have hbyte : i.form.opcode ≠ config.prefixByte := fun hb => hlead (hdec.symm.trans (congrArg decodePrimary hb))
      rw [List.singleton_append, decode_cons_of_ne_prefixByte hbyte, hdec]

/-! ### Every decoded byte is accounted for (R103) -/

/-- Whatever the primary table gives for a byte is well formed, and that byte alone is its encoding. -/
theorem decodePrimary_wf_and_encode (b : Byte) : (decodePrimary b).wf = true ∧ encode (decodePrimary b) = [b] := by
  rcases decodePrimary_cases b with ⟨rfl, -⟩ | ⟨hslot, hdec⟩ | ⟨-, -, himpl, hop⟩
  · exact ⟨rfl, rfl⟩
  · rw [hdec]
    exact ⟨hslot, rfl⟩
  · have hone : ∀ b', (decodePrimary b).form ≠ .illegalPrefixed b' := fun b' hform => by
      simp [Instr.isDecodeFailure, hform] at himpl
    refine ⟨?_, by rw [encode_eq_singleton hone, hop]⟩
    unfold Instr.isDecodeFailure at himpl
    unfold Instr.wf
    generalize (decodePrimary b).form = f at himpl
    cases f with
    | illegal b' => contradiction
    | _ => rfl

/-- Settles O2: by the shape of the byte list; a first byte goes to the primary table unless it is the lead-in with a byte
after it, which two bytes are the encoding of the prefixed slot. -/
theorem decodedBytesAreItsEncoding : Obligations.DecodedBytesAreItsEncoding := by
  intro bytes rest i h
  match bytes with
  | [] => contradiction
  | [b] =>
    obtain ⟨rfl, rfl⟩ : decodePrimary b = i ∧ [] = rest := by simpa [decode] using h
    obtain ⟨hwf, henc⟩ := decodePrimary_wf_and_encode b
    exact ⟨hwf, by rw [henc, List.singleton_append]⟩
  | b :: b1 :: tail =>
    by_cases hb : b = config.prefixByte
    · subst hb
      rw [decode_prefixByte_cons] at h
      obtain ⟨rfl, rfl⟩ : Instr.illegalPrefixed b1 = i ∧ tail = rest := by simpa using h
      exact ⟨rfl, rfl⟩
    · rw [decode_cons_of_ne_prefixByte hb] at h
      obtain ⟨rfl, rfl⟩ : decodePrimary b = i ∧ b1 :: tail = rest := by simpa using h
      obtain ⟨hwf, henc⟩ := decodePrimary_wf_and_encode b
      exact ⟨hwf, by rw [henc, List.singleton_append]⟩

/-! ### The length and written-out words (R91, R99) -/

/-- Settles O4, checked byte by byte: R99's table is a finite fact about the 256 rows of the primary table. -/
theorem lengthFollowsFromByteZero : Obligations.LengthFollowsFromByteZero := by
  apply Byte.forall_of_ofNat
  decide +kernel

/-- Settles O5: each word is looked up in the table. -/
theorem writtenOutWordsDecode : Obligations.WrittenOutWordsDecode :=
  ⟨rfl, rfl, rfl, rfl, rfl, rfl, rfl, rfl, rfl, rfl, rfl, rfl, rfl⟩

end Sys2Proof
end

section
/-! PROOFS. The statements of 45_misc.md and 60_exceptions.md on a step: what it executes (R173), its conditions (R181, R184
to R186, R189), NOPs over empty memory (R170) and a woken core (R221). -/

namespace Sys2Proof.Machine

/-! ### The step and the decoder (R173) -/

/-- The decoder, given the three bytes at pc, reads the instruction the step fetches. -/
theorem decode_bytes_at_pc (s : State) :
    ∃ rest, decode [memRead s s.pc, memRead s (add16 s.pc 1#16), memRead s (add16 s.pc 2#16)] =
      .ok (fetchInstr s, rest) := by
  by_cases h : memRead s s.pc = config.prefixByte
  · rw [fetchInstr_prefixed h, h, decode_prefixByte_cons]
    exact ⟨_, rfl⟩
  · rw [fetchInstr_primary h, decode_cons_of_ne_prefixByte h]
    exact ⟨_, rfl⟩

/-- Settles O6: the instruction decoded is the one fetched, which a running core executes. -/
theorem stepRunsTheDecodedInstruction : Obligations.StepRunsTheDecodedInstruction := by
  intro s i rest hrun hdec
  obtain ⟨rest', hfetch⟩ := decode_bytes_at_pc s
  rw [hfetch, Except.ok.injEq, Prod.mk.injEq] at hdec
  rw [step_running hrun, hdec.1]

/-! ### Conditions (R181, R184 to R186, R189) -/

/-- Settles O10: a reported condition is a fault of the step, and the same step from the same state faults again. -/
theorem conditionChangesNothingAndRepeats : Obligations.ConditionChangesNothingAndRepeats := by
  intro s t f h
  obtain ⟨hfault, rfl⟩ := transact_step_condition h
  exact ⟨rfl, transact_step_of_fault hfault⟩

theorem step_ne_refused (s : State) (r : Refusal) : step s ≠ .refused r := by
  rcases step_outcomes s with ⟨t, h⟩ | ⟨-, b, p, h⟩ <;> simp [h]

/-- Inversion of a fault: a running core, with the lead-in or an illegal slot at pc. -/
theorem step_fault_cases {s : State} {f : Fault} (h : step s = .fault f) :
    s.halted = false ∧
      ((memRead s s.pc = config.prefixByte ∧ f = .illegalOpcode s.pc (memRead s (add16 s.pc 1#16)) true) ∨
       (isIllegalSlot (memRead s s.pc) = true ∧ f = .illegalOpcode s.pc (memRead s s.pc) false)) := by
  have hrun : s.halted = false := by
    rw [← Bool.not_eq_true]
    intro hhalted
    rw [step_halted hhalted] at h
    contradiction
  refine ⟨hrun, ?_⟩
  by_cases hlead : memRead s s.pc = config.prefixByte
  · rw [step_of_prefixByte hrun hlead, Host.Outcome.fault.injEq] at h
    exact .inl ⟨hlead, h.symm⟩
  · cases hslot : isIllegalSlot (memRead s s.pc)
    · obtain ⟨t, ht⟩ := exists_exec_next (isDecodeFailure_decodePrimary_eq_false hlead hslot) s
      rw [step_of_ne_prefixByte hrun hlead, ht] at h
      contradiction
    · rw [step_of_isIllegalSlot hrun hslot, Host.Outcome.fault.injEq] at h
      exact .inr ⟨rfl, h.symm⟩

/-- Settles O11: no outcome of a step is a refusal, and a fault is one of the two of `step_fault_cases`. -/
theorem onlyIllegalOpcodeIsEverReported : Obligations.OnlyIllegalOpcodeIsEverReported :=
  fun s => ⟨step_ne_refused s, fun _ h => step_fault_cases h⟩

/-! ### NOPs over empty memory (R170) -/

/-- A running core with 0x00 at pc executes NOP. -/
theorem step_of_nop {s : State} (hrun : s.halted = false) (h : memRead s s.pc = 0x00#8) :
    step s = .next (s.setPc (add16 s.pc 1#16)) := by
  have hfetch : decodePrimary 0x00#8 = .nop := decodePrimary_opcode (f := .nop) rfl
  have hlead : memRead s s.pc ≠ config.prefixByte := by rw [h]; decide
  rw [step_of_ne_prefixByte hrun hlead, h, hfetch, exec_nop, nopStep, advance_eq]

/-- Settles O36, by induction on the number of steps: each is a NOP, which leaves memory and the run state as they were. -/
theorem emptyMemoryRunsNops : Obligations.EmptyMemoryRunsNops := by
  suffices hruns : ∀ (n : Nat) (s : State), s.halted = false → (∀ y, memRead s y = 0x00#8) →
      Host.Core.run core n s = .next (s.setPc (add16 s.pc (BitVec.ofNat 16 n))) from hruns
  intro n
  induction n with
  | zero =>
    intro s _ _
    have hpc : add16 s.pc (BitVec.ofNat 16 0) = s.pc := BitVec.add_zero s.pc
    rw [hpc]
    rfl
  | succ n ih =>
    intro s hrun hmem
    have hrest : Host.Core.run core n (s.setPc (add16 s.pc 1#16)) =
        .next (s.setPc (add16 (add16 s.pc 1#16) (BitVec.ofNat 16 n))) := ih _ hrun hmem
    rw [add16_one_add16] at hrest
    exact (run_succ_of_step (step_of_nop hrun (hmem s.pc)) n).trans hrest

/-! ### A woken core (R221) -/

/-- A running core with 0x76 at pc executes HALT. -/
theorem step_of_halt {s : State} (hrun : s.halted = false) (h : memRead s s.pc = 0x76#8) :
    step s = .next (s.setHalted true) := by
  have hfetch : decodePrimary 0x76#8 = .halt := decodePrimary_opcode (f := .halt) rfl
  have hlead : memRead s s.pc ≠ config.prefixByte := by rw [h]; decide
  rw [step_of_ne_prefixByte hrun hlead, h, hfetch, exec_halt, haltStep]

theorem transact_step_of_next {s t : State} (h : step s = .next t) : transact .step s = (.ok, t) := by
  simp only [transact, stepPort, h]

theorem wake_setHalted {s : State} (hrun : s.halted = false) : wake (s.setHalted true) = s :=
  State.setHalted_eq_self hrun

/-- Settles O37: the wake gives back the state before the HALT, from which the same step halts again. -/
theorem wokenCoreHaltsAgain : Obligations.WokenCoreHaltsAgain := by
  intro s hrun hbyte
  have hstep : step s = .next (s.setHalted true) := step_of_halt hrun hbyte
  have hwake : wake (s.setHalted true) = s := wake_setHalted hrun
  refine ⟨hstep, hwake, ?_⟩
  calc session [.step, .wake, .step] s
      = (transact .step (wake (transact .step s).2)).2 := rfl
    _ = s.setHalted true := by rw [transact_step_of_next hstep, hwake, transact_step_of_next hstep]

end Sys2Proof.Machine
end

section
/-! PROOFS. The statements of 10_state.md section 2 and 40_alu_add.md section 2: the flag byte (R26), the flags every step
leaves (R27), the corner cases of ADD A,r (R124), and the round trips of AF (R24). -/

namespace Sys2Proof.Machine

/-! ### The flag byte (R26) -/

theorem packF_low_nibble (f : Flags) : packF f &&& 0x0F#8 = 0x00#8 := by
  obtain ⟨z, n, h, c⟩ := f
  cases z <;> cases n <;> cases h <;> cases c <;> rfl

/-- Settles O39: one law of `packF` and `unpackF` per clause. -/
theorem flagByteRoundTrips : Obligations.FlagByteRoundTrips :=
  ⟨fun f => ⟨unpackF_packF f, packF_low_nibble f, packF_toNat f⟩, fun b => ⟨rfl, packF_unpackF b⟩⟩

/-! ### The flags every step leaves (R27) -/

/-- Only POP AF and ADD have a row of their own in the table of flags. -/
theorem form_of_formFlags_ne {f : Form} {s : State} (h : formFlags f s ≠ s.flags) :
    f = .popAf ∨ ∃ r, f = .addReg r := by
  cases f with
  | popAf => exact .inl rfl
  | addReg r => exact .inr ⟨r, rfl⟩
  | _ => exact absurd rfl h

/-- Settles O40: a halted step changes nothing, and a running one leaves the flags of its form's row. -/
theorem flagsChangeOnlyByAddAndPopAf : Obligations.FlagsChangeOnlyByAddAndPopAf := by
  intro s t h
  rcases step_next_cases h with ⟨-, rfl⟩ | ⟨-, hnext⟩
  · exact ⟨fun hne => absurd rfl hne, fun hs ht => absurd (hs.symm.trans ht) Bool.false_ne_true⟩
  · rw [formNext_flags hnext]
    refine ⟨fun hne => ?_, fun hs ht => Instr.form_inj (eq_popAf_of_formFlags_n hs ht)⟩
    refine (form_of_formFlags_ne hne).imp Instr.form_inj fun ⟨r, hr⟩ => ⟨r, Instr.form_inj ?_⟩
    rw [hr, Form.form_instr]

/-! ### The corner cases of ADD A,r (R124) -/

theorem byte_eq_iff_toNat {b c : Byte} : b = c ↔ b.toNat = c.toNat := BitVec.toNat_inj.symm

theorem getLsbD_iff_div_mod (b : Byte) (i : Nat) : b.getLsbD i = true ↔ b.toNat / 2 ^ i % 2 = 1 := by
  rw [BitVec.getLsbD, Nat.testBit_eq_decide_div_mod_eq, decide_eq_true_iff]

section flags
variable (a v : Byte)

theorem addFlags_z_iff : (addFlags a v).z = true ↔ (a.toNat + v.toNat) % 256 = 0 := by
  rw [addFlags_eq, decide_eq_true_iff]

theorem addFlags_h_iff : (addFlags a v).h = true ↔ a.toNat % 16 + v.toNat % 16 > 0xF := by
  rw [addFlags_eq, decide_eq_true_iff]

theorem addFlags_c_iff : (addFlags a v).c = true ↔ a.toNat + v.toNat > 0xFF := by
  rw [addFlags_eq, decide_eq_true_iff]

/-- Doubling: the bit carried out of a nibble is its top bit (item 1). -/
theorem addFlags_double : (addFlags a a).h = a.getLsbD 3 ∧ (addFlags a a).c = a.getLsbD 7 ∧
    ((addFlags a a).z = true ↔ a = 0x00#8 ∨ a = 0x80#8) := by
  have ha := a.isLt
  refine ⟨?_, ?_, ?_⟩
  · rw [Bool.eq_iff_iff, addFlags_h_iff, getLsbD_iff_div_mod]
    omega
  · rw [Bool.eq_iff_iff, addFlags_c_iff, getLsbD_iff_div_mod]
    omega
  · rw [addFlags_z_iff, byte_eq_iff_toNat, byte_eq_iff_toNat, BitVec.toNat_ofNat, BitVec.toNat_ofNat]
    omega

/-- A zero operand: A stays, nothing is carried (item 2). -/
theorem wrapSum_zero_right : wrapSum a 0x00#8 = a := by
  rw [byte_eq_iff_toNat, wrapSum_toNat, BitVec.toNat_ofNat]
  have ha := a.isLt
  omega

theorem addFlags_zero_right : (addFlags a 0x00#8).h = false ∧ (addFlags a 0x00#8).c = false ∧
    ((addFlags a 0x00#8).z = true ↔ a = 0x00#8) := by
  have ha := a.isLt
  rw [← Bool.not_eq_true, ← Bool.not_eq_true, addFlags_h_iff, addFlags_c_iff, addFlags_z_iff, byte_eq_iff_toNat,
    BitVec.toNat_ofNat]
  omega

/-- Zero and carry together mean the exact sum 0x100 (item 4). -/
theorem addFlags_z_and_c_iff :
    (addFlags a v).z = true ∧ (addFlags a v).c = true ↔ a.toNat + v.toNat = 0x100 := by
  have ha := a.isLt
  have hv := v.isLt
  rw [addFlags_z_iff, addFlags_c_iff]
  omega

/-- At the sum 0x100 the low nibbles sum to 0 or to 0x10 (item 4). -/
theorem addFlags_h_false_iff_of_sum (h : a.toNat + v.toNat = 0x100) :
    (addFlags a v).h = false ↔ a.toNat % 16 = 0 ∧ v.toNat % 16 = 0 := by
  rw [← Bool.not_eq_true, addFlags_h_iff]
  omega

/-- A zero result without carry is the sum 0 (item 7). -/
theorem eq_zero_of_wrapSum_zero (hz : wrapSum a v = 0x00#8) (hc : (addFlags a v).c = false) :
    a = 0x00#8 ∧ v = 0x00#8 := by
  rw [byte_eq_iff_toNat, wrapSum_toNat, BitVec.toNat_ofNat] at hz
  rw [← Bool.not_eq_true, addFlags_c_iff] at hc
  rw [byte_eq_iff_toNat, byte_eq_iff_toNat, BitVec.toNat_ofNat]
  omega
end flags

/-- No flag is an input of ADD (item 5). -/
theorem addReg_setFlags (r : Reg8) (s : State) (f : Flags) : addReg r (s.setFlags f) = addReg r s := by
  cases r <;> rfl

/-- Settles O13: A and the flags that ADD leaves are `wrapSum` and `addFlags` of A and the operand, and each item of R124 is
a law of these two, or their value at the two bytes it names. -/
theorem addCornerCases : Obligations.AddCornerCases := by
  intro r s
  have ha : (addReg r s).a = wrapSum s.a (s.reg r) := rfl
  have hf : (addReg r s).flags = addFlags s.a (s.reg r) := rfl
  refine ⟨addReg r s, exec_addReg r s, ?_⟩
  rw [ha, hf]
  refine ⟨?_, fun hv => ?_, fun ha hv => ?_, addFlags_z_and_c_iff _ _, fun hz hc => ?_, fun f => ?_, fun ha hv => ?_,
    fun ha hv => ?_, eq_zero_of_wrapSum_zero _ _⟩
  · rintro rfl
    refine ⟨?_, addFlags_double s.a⟩
    rw [wrapSum_toNat, State.reg, Nat.two_mul]
  · rw [hv]
    exact ⟨wrapSum_zero_right s.a, addFlags_zero_right s.a⟩
  · rw [ha, hv]
    rfl
  · exact addFlags_h_false_iff_of_sum _ _ ((addFlags_z_and_c_iff _ _).1 ⟨hz, hc⟩)
  · rw [exec_addReg, addReg_setFlags]
  · rw [ha, hv]
    exact ⟨rfl, rfl, rfl⟩
  · rw [ha, hv]
    exact ⟨rfl, rfl, rfl⟩

/-! ### Round trips of AF (R24) -/

theorem pushAf_sp (s : State) : (pushAf s).sp = sub16 s.sp 2#16 := (rfl)

theorem memRead_pushAf_high (s : State) : memRead (pushAf s) (sub16 s.sp 1#16) = s.a :=
  (memRead_push16_high s s.af).trans (hiByte_mkWord s.a (packF s.flags))

/-- POP AF reads back what PUSH AF stored. -/
theorem popAf_pushAf_a (s : State) : (popAf (pushAf s)).a = s.a := by
  rw [popAf_a, pushAf_sp, add16_one_sub16_two, memRead_pushAf_high]

theorem popAf_pushAf_flags (s : State) : (popAf (pushAf s)).flags = s.flags := by
  rw [popAf_flags, pushAf_sp, memRead_pushAf_low, unpackF_packF]

/-- PUSH AF stores the popped high byte back where it lay. -/
theorem memRead_pushAf_popAf_high (s : State) :
    memRead (pushAf (popAf s)) (add16 s.sp 1#16) = memRead s (add16 s.sp 1#16) := by
  rw [← sub16_one_add16_two, ← popAf_sp, memRead_pushAf_high, popAf_a, popAf_sp, sub16_one_add16_two]

/-- Settles O27: the two bytes of AF through the stack, in either order, sp down and up by 2. -/
theorem afRoundTripsClearTheLowNibble : Obligations.AfRoundTripsClearTheLowNibble := by
  refine fun s => ⟨⟨pushAf s, popAf (pushAf s), exec_pushAf s, exec_popAf _, popAf_pushAf_a s, popAf_pushAf_flags s, ?_⟩,
    ⟨popAf s, pushAf (popAf s), exec_popAf s, exec_pushAf _, memRead_pushAf_popAf s, memRead_pushAf_popAf_high s, ?_⟩⟩
  · rw [popAf_sp, pushAf_sp, add16_sub16_two]
  · rw [pushAf_sp, popAf_sp, sub16_add16_two]

end Sys2Proof.Machine
end

section
/-! PROOFS. The derived statements of 44_call_ret.md: a CALL over its own immediate (R163), and CALL followed by RET (R160). -/

namespace Sys2Proof.Machine

/-! ### A CALL whose push lands on its own immediate (R163) -/

/-- The two bytes pushed lie at pc + 1 and pc + 2, and form the return address again. -/
theorem callImm_pc_of_sp_add_three {s : State} (h : s.sp = add16 s.pc 3#16) :
    (callImm s).pc = add16 s.pc 3#16 := by
  have hhigh : add16 s.pc 2#16 = sub16 s.sp 1#16 := by rw [h]; bv_omega
  have hlow : add16 s.pc 1#16 = sub16 s.sp 2#16 := by rw [h]; bv_omega
  rw [callImm_pc, immediateIn, hhigh, hlow, (callEffect_callImm s).1, (callEffect_callImm s).2.1, ← mkWord_eq_ofNat,
    mkWord_hi_lo]

/-- The high byte pushed lies at pc + 1; the byte at pc + 2 is untouched. -/
theorem callImm_pc_of_sp_add_two {s : State} (h : s.sp = add16 s.pc 2#16) :
    (callImm s).pc =
      BitVec.ofNat 16 ((memRead s (add16 s.pc 2#16)).toNat * 256 + (hiByte (add16 s.pc 3#16)).toNat) := by
  have hlow : add16 s.pc 1#16 = sub16 s.sp 1#16 := by rw [h]; bv_omega
  have hfree1 : add16 s.pc 2#16 ≠ sub16 s.sp 1#16 := by rw [h]; bv_omega
  have hfree2 : add16 s.pc 2#16 ≠ sub16 s.sp 2#16 := by rw [h]; bv_omega
  obtain ⟨hhigh, -, hother, -⟩ := callEffect_callImm s
  rw [callImm_pc, immediateIn, hother _ hfree1 hfree2, hlow, hhigh]

/-- The low byte pushed lies at pc + 2; the byte at pc + 1 is untouched. -/
theorem callImm_pc_of_sp_add_four {s : State} (h : s.sp = add16 s.pc 4#16) :
    (callImm s).pc =
      BitVec.ofNat 16 ((loByte (add16 s.pc 3#16)).toNat * 256 + (memRead s (add16 s.pc 1#16)).toNat) := by
  have hhigh : add16 s.pc 2#16 = sub16 s.sp 2#16 := by rw [h]; bv_omega
  have hfree1 : add16 s.pc 1#16 ≠ sub16 s.sp 1#16 := by rw [h]; bv_omega
  have hfree2 : add16 s.pc 1#16 ≠ sub16 s.sp 2#16 := by rw [h]; bv_omega
  obtain ⟨-, hlow, hother, -⟩ := callEffect_callImm s
  rw [callImm_pc, immediateIn, hother _ hfree1 hfree2, hhigh, hlow]

/-- For every other sp the push misses the immediate. -/
theorem immediateIn_callImm_of_sp_ne {s : State} (h2 : s.sp ≠ add16 s.pc 2#16) (h3 : s.sp ≠ add16 s.pc 3#16)
    (h4 : s.sp ≠ add16 s.pc 4#16) : immediateIn (callImm s) s = immediateIn s s := by
  obtain ⟨-, -, hother, -⟩ := callEffect_callImm s
  have hlow : memRead (callImm s) (add16 s.pc 1#16) = memRead s (add16 s.pc 1#16) :=
    hother _ (by bv_omega) (by bv_omega)
  have hhigh : memRead (callImm s) (add16 s.pc 2#16) = memRead s (add16 s.pc 2#16) :=
    hother _ (by bv_omega) (by bv_omega)
  rw [immediateIn, hlow, hhigh, immediateIn]

/-- The two readings of D12 differ in the immediate they jump to and in nothing else. -/
theorem callTaken_false_eq (s : State) : callTaken false s = (callImm s).setPc (immediateIn s s) := by
  rw [← imm16_eq_immediateIn]
  rfl

theorem State.setPc_eq_self {s : State} {v : Word} (h : s.pc = v) : s.setPc v = s := by
  subst h
  rfl

/-- Settles O30: where the bytes pushed lie relative to the immediate, in each position of sp. -/
theorem callOverItsOwnImmediate : Obligations.CallOverItsOwnImmediate := by
  refine fun s => ⟨callImm s, exec_call s, callImm_pc_of_sp_add_three, callImm_pc_of_sp_add_two,
    callImm_pc_of_sp_add_four, fun h2 h3 h4 => ?_⟩
  have hpc : (callImm s).pc = immediateIn s s := (callImm_pc s).trans (immediateIn_callImm_of_sp_ne h2 h3 h4)
  have htrue : callTaken true s = callImm s := rfl
  exact ⟨hpc, by rw [callTaken_false_eq, State.setPc_eq_self hpc, htrue]⟩

/-! ### CALL, then RET (R160) -/

/-- RET after CALL pops the return address the CALL pushed. -/
theorem stackTop_callImm (s : State) : stackTop (callImm s) = returnAddr s := by
  have hcall : callImm s = (push16 s (returnAddr s)).setPc (imm16 (push16 s (returnAddr s))) := rfl
  rw [← popValue_eq_stackTop, hcall, popValue_setPc, popValue_push16]

theorem otherRegsSame_retAlways (s : State) : OtherRegsSame [] s (retAlways s) :=
  ⟨fun q _ => (State.reg_setPc _ _ q).trans (State.reg_setSp s _ q), rfl⟩

theorem retAlways_flags (s : State) : (retAlways s).flags = s.flags := (rfl)

theorem retAlways_sp (s : State) : (retAlways s).sp = add16 s.sp 2#16 := (rfl)

/-- Settles O33: the CALL keeps the registers and flags and pushes the return address; the RET pops it and keeps them too. -/
theorem returnAfterCallComesBack : Obligations.ReturnAfterCallComesBack := by
  intro s
  obtain ⟨-, -, -, hsp, -, hregs, hflags, -⟩ := callEffect_callImm s
  refine ⟨callImm s, retAlways (callImm s), exec_call s, exec_ret _, ?_, ?_,
    hregs.trans (otherRegsSame_retAlways _), (retAlways_flags _).trans hflags⟩
  · rw [retAlways_pc, stackTop_callImm, returnAddr]
  · rw [retAlways_sp, hsp, add16_sub16_two]

end Sys2Proof.Machine
end

section
/-! PROOFS. The tables of 10_state.md by form: the registers an instruction writes (R21), the next sp (R30), the run state
(R31) and the addresses it stores to (R36). -/

namespace Sys2Proof.Machine

/-! ### General registers (R21) -/

theorem otherRegsSame_callImm (s : State) : OtherRegsSame [] s (callImm s) :=
  ⟨fun q _ => push16_reg s (returnAddr s) q, push16_halted s (returnAddr s)⟩

theorem otherRegsSame_jumpCond (cc : Cond) (s : State) : OtherRegsSame [] s (jumpCond cc s) := by
  rw [jumpCond_eq]
  exact ⟨fun q _ => State.reg_setPc s _ q, rfl⟩

/-- The state a form commits has the registers outside the form's row as before. -/
theorem formNext_reg {f : Form} {s t : State} (h : formNext f s = some t) {q : Reg8} (hq : q ∉ formWrites f) :
    t.reg q = s.reg q := by
  cases f <;> simp only [formNext, Option.some.injEq, reduceCtorEq] at h <;> subst h
  case addReg r => exact (otherRegsSame_setReg s .A (wrapSum s.a (s.reg r))).1 q hq
  case ldRegReg d r => exact (otherRegsSame_setReg s d _).1 q hq
  case ldRegImm d => exact (otherRegsSame_setReg s d _).1 q hq
  case ldRegHl d => exact (otherRegsSame_setReg s d _).1 q hq
  case ldHlReg r => exact memWrite_reg s _ _ q
  case ldHlImm => exact memWrite_reg s _ _ q
  case jp => exact State.reg_setPc s _ q
  case jpCond cc => exact (otherRegsSame_jumpCond cc s).1 q hq
  case pushPair rr => exact push16_reg s (s.pair rr) q
  case pushAf => exact push16_reg s s.af q
  case popPair rr =>
    have hq' : q ∉ [pairHi rr, pairLo rr] := by cases rr <;> exact hq
    exact (otherRegsSame_setPair (popState s) rr _).1 q hq'
  case popAf => exact (otherRegsSame_setAf (popState s) _).1 q hq
  case call => exact (otherRegsSame_callImm s).1 q hq
  case callCond cc => unfold callCond; split; exacts [(otherRegsSame_callImm s).1 q hq, State.reg_setPc s _ q]
  case ret => exact (otherRegsSame_retAlways s).1 q hq
  case retCond cc => unfold retCond; split; exacts [(otherRegsSame_retAlways s).1 q hq, State.reg_setPc s _ q]
  case nop => exact State.reg_setPc s _ q
  case halt => exact State.reg_setHalted s _ q

/-- Settles O41: the registers outside the row of the instruction's form. -/
theorem onlyNamedRegistersChange : Obligations.OnlyNamedRegistersChange :=
  fun _ _ _ h _ hq => formNext_reg (exec_next_iff.1 h) hq

/-! ### The stack pointer (R30) -/

theorem callImm_sp (s : State) : (callImm s).sp = sub16 s.sp 2#16 := push16_sp s (returnAddr s)

/-- The state a form commits has the sp of the form's row. -/
theorem formNext_sp {f : Form} {s t : State} (h : formNext f s = some t) : t.sp = formSp f s := by
  cases f <;> simp only [formNext, Option.some.injEq, reduceCtorEq] at h <;> subst h <;> simp only [formSp]
  case addReg r => rfl
  case ldRegReg d r => exact State.setReg_sp s d _
  case ldRegImm d => exact State.setReg_sp s d _
  case ldRegHl d => exact State.setReg_sp s d _
  case ldHlReg r => exact memWrite_sp s _ _
  case ldHlImm => exact memWrite_sp s _ _
  case jp => rfl
  case jpCond cc => rw [jumpCond_eq]
  case pushPair rr => exact push16_sp s (s.pair rr)
  case pushAf => exact push16_sp s s.af
  case popPair rr => exact setPair_sp (popState s) rr _
  case popAf => exact popAf_sp s
  case call => exact callImm_sp s
  case callCond cc => unfold callCond; split; exacts [callImm_sp s, rfl]
  case ret => exact retAlways_sp s
  case retCond cc => unfold retCond; split; exacts [retAlways_sp s, rfl]
  case nop => rfl
  case halt => rfl

/-- Each row of the table keeps sp or moves it by 2. -/
theorem formSp_cases (f : Form) (s : State) :
    formSp f s = s.sp ∨ formSp f s = sub16 s.sp 2#16 ∨ formSp f s = add16 s.sp 2#16 := by
  cases f with
  | pushPair rr => exact .inr (.inl rfl)
  | pushAf => exact .inr (.inl rfl)
  | call => exact .inr (.inl rfl)
  | popPair rr => exact .inr (.inr rfl)
  | popAf => exact .inr (.inr rfl)
  | ret => exact .inr (.inr rfl)
  | callCond cc => simp only [formSp]; split; exacts [.inr (.inl rfl), .inl rfl]
  | retCond cc => simp only [formSp]; split; exacts [.inr (.inr rfl), .inl rfl]
  | _ => exact .inl rfl

theorem sp_moves_of_step {s t : State} (h : step s = .next t) :
    t.sp = s.sp ∨ t.sp = sub16 s.sp 2#16 ∨ t.sp = add16 s.sp 2#16 := by
  rcases step_next_cases h with ⟨-, rfl⟩ | ⟨-, hnext⟩
  · exact .inl rfl
  · rw [formNext_sp hnext]
    exact formSp_cases _ s

/-- The size of the address space is even, so a move by 2 keeps the parity across the wrap. -/
theorem parity_of_moves {x y : Word} (h : y = x ∨ y = sub16 x 2#16 ∨ y = add16 x 2#16) :
    y.toNat % 2 = x.toNat % 2 := by
  rcases h with rfl | rfl | rfl
  · rfl
  · rw [BitVec.toNat_sub, BitVec.toNat_ofNat]
    omega
  · rw [BitVec.toNat_add, BitVec.toNat_ofNat]
    omega

/-- Settles O43: the row of the instruction's form, each of which moves sp by 2 or not at all. -/
theorem stackPointerMovesByTwo : Obligations.StackPointerMovesByTwo :=
  ⟨fun _ _ _ h => formNext_sp (exec_next_iff.1 h),
    fun _ _ h => ⟨sp_moves_of_step h, parity_of_moves (sp_moves_of_step h)⟩⟩

/-! ### The run state (R31) -/

/-- Every form but HALT keeps the run state. -/
theorem formNext_halted {f : Form} {s t : State} (h : formNext f s = some t) :
    t.halted = s.halted ∨ f = .halt ∧ t.halted = true := by
  cases f <;> simp only [formNext, Option.some.injEq, reduceCtorEq] at h <;> subst h
  case halt => exact .inr ⟨rfl, rfl⟩
  all_goals left
  case addReg r => rfl
  case ldRegReg d r => exact State.setReg_halted s d _
  case ldRegImm d => exact State.setReg_halted s d _
  case ldRegHl d => exact State.setReg_halted s d _
  case ldHlReg r => exact memWrite_halted s _ _
  case ldHlImm => exact memWrite_halted s _ _
  case jp => rfl
  case jpCond cc => exact (otherRegsSame_jumpCond cc s).2
  case pushPair rr => exact push16_halted s (s.pair rr)
  case pushAf => exact push16_halted s s.af
  case popPair rr => exact setPair_halted (popState s) rr _
  case popAf => exact (otherRegsSame_setAf (popState s) (popValue s)).2
  case call => exact (otherRegsSame_callImm s).2
  case callCond cc => unfold callCond; split; exacts [(otherRegsSame_callImm s).2, rfl]
  case ret => rfl
  case retCond cc => unfold retCond; split <;> rfl
  case nop => rfl

/-- Inversion of the step transaction: the step commits its state, or the state stays. -/
theorem transact_step_cases (s : State) :
    (∃ t, step s = .next t ∧ (transact .step s).2 = t) ∨ (transact .step s).2 = s := by
  rcases step_outcomes s with ⟨t, h⟩ | ⟨-, b, p, h⟩
  · exact .inl ⟨t, h, by rw [transact_step_of_next h]⟩
  · exact .inr (by rw [transact_step_of_fault h])

theorem transact_step_halted (s : State) :
    (transact .step s).2.halted = s.halted ∨ s.halted = false ∧ fetchInstr s = .halt := by
  rcases transact_step_cases s with ⟨t, h, ht⟩ | ht
  · rw [ht]
    rcases step_next_cases h with ⟨-, rfl⟩ | ⟨hrun, hnext⟩
    · exact .inl rfl
    · exact (formNext_halted hnext).imp_right fun ⟨hform, _⟩ => ⟨hrun, Instr.form_inj hform⟩
  · exact .inl (congrArg State.halted ht)

theorem storeBytes_halted (bytes : List Byte) (s : State) (x : Word) : (storeBytes s x bytes).halted = s.halted :=
  storeBytes_keeps (P := fun t => t.halted = s.halted) (fun t a v h => (memWrite_halted t a v).trans h) bytes s x rfl

/-- Inversion of the bulk load: it stores the bytes, or it is refused and the state stays. -/
theorem bulkLoadPort_cases (start : Word) (bytes : List Byte) (s : State) :
    (bulkLoadPort start bytes s).2 = storeBytes s start bytes ∨ (bulkLoadPort start bytes s).2 = s := by
  unfold bulkLoadPort
  split
  · exact .inl rfl
  · exact .inr rfl

theorem tileReadPort_state (t r c : Nat) (s : State) : (tileReadPort t r c s).2 = s := by
  unfold tileReadPort
  split <;> rfl

/-- Every transaction but a step, the wake and the reset keeps the run state. -/
theorem transact_halted (i : Input) (s : State) :
    (transact i s).2.halted = s.halted ∨ (i = .step ∧ s.halted = false ∧ fetchInstr s = .halt) ∨
      ((i = .wake ∨ i = .powerOnReset) ∧ (transact i s).2.halted = false) := by
  cases i with
  | powerOnReset => exact .inr (.inr ⟨.inr rfl, rfl⟩)
  | wake => exact .inr (.inr ⟨.inl rfl, rfl⟩)
  | step => exact (transact_step_halted s).imp_right fun h => .inl ⟨rfl, h⟩
  | bulkLoad start bytes =>
    left
    rcases bulkLoadPort_cases start bytes s with h | h
    · exact (congrArg State.halted h).trans (storeBytes_halted bytes s start)
    · exact congrArg State.halted h
  | readByte x => exact .inl rfl
  | writeByte x v => exact .inl (memWrite_halted s x v)
  | tileRead t r c => exact .inl (congrArg State.halted (tileReadPort_state t r c s))

/-- Settles O44: a transaction that changes the run state is a step of HALT from running, or a wake or reset into running. -/
theorem onlyHaltHaltsAndOnlyWakeWakes : Obligations.OnlyHaltHaltsAndOnlyWakeWakes := by
  intro i s
  rcases transact_halted i s with hsame | ⟨hi, hrun, hfetch⟩ | ⟨hi, hrun⟩
  · rw [hsame]
    exact ⟨fun hf ht => absurd (hf.symm.trans ht) Bool.false_ne_true,
      fun ht hf => absurd (hf.symm.trans ht) Bool.false_ne_true⟩
  · exact ⟨fun _ _ => ⟨hi, hfetch⟩, fun ht => absurd (hrun.symm.trans ht) Bool.false_ne_true⟩
  · exact ⟨fun _ ht => absurd (hrun.symm.trans ht) Bool.false_ne_true, fun _ _ => hi⟩

/-! ### The bus writes of every form (R36) -/

/-- The two bus writes of Push16, in order (R150). -/
def pushWrites (s : State) (v : Word) : List (Word × Byte) :=
  [(sub16 s.sp 1#16, hiByte v), (sub16 s.sp 2#16, loByte v)]

/-- The bus writes each form makes, in order, each with its address and its byte. -/
def formBusWrites : Form → State → List (Word × Byte)
  | .ldHlReg r, s => [(hlAddr s, s.reg r)]
  | .ldHlImm, s => [(hlAddr s, imm8 s)]
  | .pushPair rr, s => pushWrites s (s.pair rr)
  | .pushAf, s => pushWrites s s.af
  | .call, s => pushWrites s (returnAddr s)
  | .callCond cc, s => if condHolds s.flags cc then pushWrites s (returnAddr s) else []
  | _, _ => []

/-- Bus writes one after another. -/
def busWrites (s : State) : List (Word × Byte) → State
  | [] => s
  | w :: ws => busWrites (memWrite s w.1 w.2) ws

/-- What every bus write keeps, a list of them keeps. -/
theorem busWrites_keeps {P : State → Prop} (write : ∀ t a v, P t → P (memWrite t a v)) :
    ∀ (ws : List (Word × Byte)) (s : State), P s → P (busWrites s ws)
  | [], _, h => h
  | w :: ws, s, h => busWrites_keeps write ws _ (write s w.1 w.2 h)

theorem memRead_busWrites_other {y : Word} : ∀ (ws : List (Word × Byte)) (s : State), y ∉ ws.map Prod.fst →
    memRead (busWrites s ws) y = memRead s y
  | [], _, _ => rfl
  | w :: ws, s, h => by
    rw [List.map_cons, List.mem_cons, not_or] at h
    rw [busWrites, memRead_busWrites_other ws _ h.2, memRead_memWrite_other s w.2 h.1]

/-- The three storages of `t` are those of `s`. -/
structure StoragesSame (s t : State) : Prop where
  plain : t.plain = s.plain
  vram : t.vram = s.vram
  tiles : t.tiles = s.tiles

theorem StoragesSame.memRead {s t : State} (h : StoragesSame s t) (y : Word) : memRead t y = memRead s y := by
  obtain ⟨hp, hv, -⟩ := h
  unfold Machine.memRead vramByte plainByte
  rw [hp, hv]

theorem StoragesSame.memorySame {s t : State} (h : StoragesSame s t) : MemorySame s t :=
  ⟨h.memRead, h.plain, h.vram, h.tiles⟩

theorem MemorySame.storagesSame {s t : State} (h : MemorySame s t) : StoragesSame s t := by
  obtain ⟨-, hp, hv, ht⟩ := h
  exact ⟨hp, hv, ht⟩

theorem StoragesSame.refl (s : State) : StoragesSame s s := ⟨rfl, rfl, rfl⟩

theorem StoragesSame.setSp {s t : State} (h : StoragesSame s t) (v : Word) : StoragesSame s (t.setSp v) :=
  ⟨h.plain, h.vram, h.tiles⟩

theorem StoragesSame.setPc {s t : State} (h : StoragesSame s t) (v : Word) : StoragesSame s (t.setPc v) :=
  ⟨h.plain, h.vram, h.tiles⟩

theorem StoragesSame.trans {s t u : State} (hst : StoragesSame s t) (htu : StoragesSame t u) : StoragesSame s u :=
  ⟨htu.plain.trans hst.plain, htu.vram.trans hst.vram, htu.tiles.trans hst.tiles⟩

theorem storagesSame_popState (s : State) : StoragesSame s (popState s) := (StoragesSame.refl s).setSp _

theorem storagesSame_push16 (s : State) (v : Word) : StoragesSame (busWrites s (pushWrites s v)) (push16 s v) :=
  (StoragesSame.refl _).setSp _

theorem storagesSame_callImm (s : State) : StoragesSame (busWrites s (pushWrites s (returnAddr s))) (callImm s) :=
  (storagesSame_push16 s (returnAddr s)).setPc _

theorem storagesSame_retAlways (s : State) : StoragesSame s (retAlways s) := (storagesSame_popState s).setPc _

/-- The storages a form commits are those its bus writes leave. -/
theorem formNext_storages {f : Form} {s t : State} (h : formNext f s = some t) :
    StoragesSame (busWrites s (formBusWrites f s)) t := by
  cases f <;> simp only [formNext, Option.some.injEq, reduceCtorEq] at h <;> subst h <;> simp only [formBusWrites]
  case addReg r => exact ⟨rfl, rfl, rfl⟩
  case ldRegReg d r => exact (memorySame_setReg s d _).storagesSame.setPc _
  case ldRegImm d => exact (memorySame_setReg s d _).storagesSame.setPc _
  case ldRegHl d => exact (memorySame_setReg s d _).storagesSame.setPc _
  case ldHlReg r => exact (StoragesSame.refl _).setPc _
  case ldHlImm => exact (StoragesSame.refl _).setPc _
  case jp => exact (StoragesSame.refl s).setPc _
  case jpCond cc => rw [jumpCond_eq]; exact (StoragesSame.refl s).setPc _
  case pushPair rr => exact (storagesSame_push16 s _).setPc _
  case pushAf => exact (storagesSame_push16 s _).setPc _
  case popPair rr => exact ((storagesSame_popState s).trans (memorySame_setPair _ rr _).storagesSame).setPc _
  case popAf => exact ((storagesSame_popState s).trans (memorySame_setAf _ _).storagesSame).setPc _
  case call => exact storagesSame_callImm s
  case callCond cc => unfold callCond; split; exacts [storagesSame_callImm s, (StoragesSame.refl s).setPc _]
  case ret => exact storagesSame_retAlways s
  case retCond cc => unfold retCond; split; exacts [storagesSame_retAlways s, (StoragesSame.refl s).setPc _]
  case nop => exact (StoragesSame.refl s).setPc _
  case halt => exact ⟨rfl, rfl, rfl⟩

/-- The addresses of the bus writes are the form's row in the table of R36. -/
theorem map_fst_formBusWrites (f : Form) (s : State) : (formBusWrites f s).map Prod.fst = formStores f s := by
  cases f with
  | callCond cc => simp only [formBusWrites, formStores]; split <;> rfl
  | _ => rfl

/-- Settles O45: the addresses outside those of the form's bus writes, and a form with none. -/
theorem onlyNamedAddressesChange : Obligations.OnlyNamedAddressesChange := by
  intro i s t h
  have hsame : StoragesSame (busWrites s (formBusWrites i.form s)) t := formNext_storages (exec_next_iff.1 h)
  rw [← map_fst_formBusWrites]
  refine ⟨fun y hy => (hsame.memRead y).trans (memRead_busWrites_other _ s hy), fun hnone => ?_⟩
  rw [List.map_eq_nil_iff.1 hnone] at hsame
  exact hsame.memorySame

end Sys2Proof.Machine
end

section
/-! PROOFS. The derived statements of 20_memory.md on writes: the same byte written twice (R71), and a store fetched by the
next step (R74, R218). -/

namespace Sys2Proof.Machine

/-! ### The same byte written twice (R71) -/

theorem plainByte_memWrite_memWrite (s : State) (x : Word) (v : Byte) (k : Nat) :
    plainByte (memWrite (memWrite s x v) x v) k = plainByte (memWrite s x v) k := by
  rcases owner_video_or_plain x with hx | hx
  · unfold plainByte
    rw [(video_write_storage v hx).2.1]
  · rw [memWrite_plain_eq hx, memWrite_plain_eq hx, plainByte_plainWrite, plainByte_plainWrite]
    split <;> rfl

theorem vramByte_memWrite_memWrite (s : State) (x : Word) (v : Byte) (k : Nat) :
    vramByte (memWrite (memWrite s x v) x v) k = vramByte (memWrite s x v) k := by
  rcases owner_video_or_plain x with hx | hx
  · rw [memWrite_video_eq hx, memWrite_video_eq hx, vramByte_videoWrite, vramByte_videoWrite]
    split <;> rfl
  · unfold vramByte
    rw [(plain_write_storage v hx).2.1]

/-- The row is recomputed from the same two bytes. -/
theorem tilePixel_memWrite_memWrite (s : State) (x : Word) (v : Byte) {t r c : Nat} (hr : r < 8) (hc : c < 8) :
    tilePixel (memWrite (memWrite s x v) x v) t r c = tilePixel (memWrite s x v) t r c := by
  by_cases hrow : WritesTileRow x t r
  · rw [tilePixel_memWrite_of_row hrow _ v hr hc, tilePixel_memWrite_of_row hrow _ v hr hc,
      vramByte_memWrite_memWrite, vramByte_memWrite_memWrite]
  · exact tilePixel_memWrite_of_not_row hrow _ v hr hc

/-- Settles O49: the second write changes no read of any storage, and canonical storages that read alike are equal. -/
theorem writeIsIdempotent : Obligations.WriteIsIdempotent := by
  intro s x v hwf
  have hwf1 : StorageWf (memWrite s x v) := hwf.memWrite x v
  have hwf2 : StorageWf (memWrite (memWrite s x v) x v) := hwf1.memWrite x v
  exact State.ext_parts (memWrite_reg _ x v) (memWrite_flags _ x v) (memWrite_pc _ x v) (memWrite_sp _ x v)
    (memWrite_halted _ x v) (hwf2.plain_ext hwf1 (plainByte_memWrite_memWrite s x v))
    (hwf2.vram_ext hwf1 (vramByte_memWrite_memWrite s x v))
    (hwf2.tiles_ext hwf1 fun _ _ _ hr hc => tilePixel_memWrite_memWrite s x v hr hc)

/-! ### A store is fetched by the next step (R74, R218) -/

/-- A running core executes what the byte at pc decodes to, the lead-in apart. -/
theorem step_of_memRead_pc {s : State} {v : Byte} (hrun : s.halted = false) (hread : memRead s s.pc = v)
    (hv : v ≠ config.prefixByte) : step s = exec (decodeByte v false) s := by
  subst hread
  exact step_of_ne_prefixByte hrun hv

/-- Settles O50: in either case the byte stored lies at the pc of the state the store leaves. -/
theorem storesAreFetchedAtOnce : Obligations.StoresAreFetchedAtOnce := by
  refine ⟨fun s v hrun hv => ?_, fun s r hrun hhl hr => ⟨ldHlReg r s, exec_instr rfl, ?_⟩⟩
  · have hread : memRead (memWrite s s.pc v) (memWrite s s.pc v).pc = v := by
      rw [memWrite_pc, memRead_memWrite_same]
    exact step_of_memRead_pc ((memWrite_halted s s.pc v).trans hrun) hread hv
  · have hread : memRead (ldHlReg r s) (ldHlReg r s).pc = s.reg r := by
      rw [ldHlReg, advance_eq, State.setPc_pc, memWrite_pc, memRead_setPc, hhl, memRead_memWrite_same]
    exact step_of_memRead_pc ((memWrite_halted s _ _).trans hrun) hread hr

end Sys2Proof.Machine
end

section
/-! PROOFS. The invariants of 10_state.md R38, R39 and R41: at reset, after every step and after every session. -/

namespace Sys2Proof.Machine

/-! ### Reset (R40, R41) -/

theorem storageWf_reset : StorageWf State.reset := by
  refine ⟨rfl, rfl, rfl, ?_, ?_, ?_⟩ <;> exact fun _ h => absurd h List.not_mem_nil

/-- With nothing written, every pixel and every byte it is decoded from is zero. -/
theorem tilesCoherent_reset : TilesCoherent State.reset := by
  intro t r c _ _ _
  have hbyte : ∀ k, vramByte State.reset k = 0x00#8 := fun _ => rfl
  rw [hbyte, hbyte, BitVec.getLsbD_zero]
  rfl

theorem shadowUntouched_reset : ShadowUntouched State.reset := fun _ _ _ => rfl

/-- Settles O55: one lemma per clause of the invariant. -/
theorem invariantHoldsAtReset : Obligations.InvariantHoldsAtReset :=
  ⟨storageWf_reset, tilesCoherent_reset, shadowUntouched_reset⟩

/-! ### Steps (R38, R41) -/

/-- Settles O56: a halted step changes nothing, and every state a form commits keeps the invariant. -/
theorem stepKeepsInvariant : Obligations.StepKeepsInvariant := by
  intro s t hinv h
  rcases step_next_cases h with ⟨-, rfl⟩ | ⟨-, hnext⟩
  · exact hinv
  · exact hinv.formNext hnext

/-- Coherence speaks of raw video memory and the tile cache only. -/
theorem TilesCoherent.of_storagesSame {s t : State} (hs : TilesCoherent s) (h : StoragesSame s t) :
    TilesCoherent t := by
  obtain ⟨-, hv, ht⟩ := h
  unfold TilesCoherent tilePixel vramByte at hs ⊢
  rw [hv, ht]
  exact hs

/-- Settles O57: the storages a step commits are those its bus writes leave, and every bus write keeps coherence. -/
theorem tileCacheStaysCoherent : Obligations.TileCacheStaysCoherent := by
  refine ⟨tilesCoherent_reset, fun s t hs h => ?_⟩
  rcases step_next_cases h with ⟨-, rfl⟩ | ⟨-, hnext⟩
  · exact hs
  · have hwrites : TilesCoherent (busWrites s (formBusWrites (fetchInstr s).form s)) :=
      busWrites_keeps (fun _ x v h => h.memWrite x v) _ s hs
    exact hwrites.of_storagesSame (formNext_storages hnext)

/-! ### Sessions (R39, R41) -/

/-- Every transaction keeps the invariant. -/
theorem Inv.transact {s : State} (h : Inv s) (i : Input) : Inv (transact i s).2 := by
  cases i with
  | powerOnReset => exact invariantHoldsAtReset
  | wake => exact h.setHalted false
  | step =>
    rcases transact_step_cases s with ⟨t, hstep, ht⟩ | ht <;> rw [ht]
    · exact stepKeepsInvariant s t h hstep
    · exact h
  | bulkLoad start bytes =>
    change Inv (bulkLoadPort start bytes s).2
    rcases bulkLoadPort_cases start bytes s with hload | hload <;> rw [hload]
    · exact Inv.storeBytes bytes h start
    · exact h
  | readByte x => exact h
  | writeByte x v => exact h.memWrite x v
  | tileRead t r c =>
    change Inv (tileReadPort t r c s).2
    rw [tileReadPort_state]
    exact h

/-- Settles O58, by induction on the list of transactions. -/
theorem sessionsKeepInvariant : Obligations.SessionsKeepInvariant := by
  intro inputs
  induction inputs with
  | nil => exact fun _ h => h
  | cons i rest ih => exact fun s h => ih _ (h.transact i)

/-- Settles O59: the shadow slots are a clause of the invariant, which reset has and every session keeps. -/
theorem shadowSlotsKeepResetValue : Obligations.ShadowSlotsKeepResetValue :=
  fun inputs k hlo hhi => (sessionsKeepInvariant inputs State.reset invariantHoldsAtReset).shadow k hlo hhi

end Sys2Proof.Machine
end
